-- ==== Sys2Proof/Word.lean ====
section
/-! DEFINITION. The widths of the block's values (spec 00_scope.md R10: a `uN` is an unsigned N-bit number). -/

namespace Sys2Proof

/-- A `u4`: a version tag or a message type (30_encoding.md R72). -/
abbrev Nibble := BitVec 4

/-- A `u8`. -/
abbrev Byte := BitVec 8

/-- A `u16`. -/
abbrev Half := BitVec 16

/-- A `u32`. -/
abbrev Word := BitVec 32

end Sys2Proof
end

