-- ==== Sys2Proof/Config.lean ====
section
/-! DEFINITION. The implementation parameters (spec 00_scope.md R8), the design-time constants, and the
one free value: what an outside reader sees in a message register that holds no message (10_state.md R32). -/

namespace Sys2Proof

/-- A layout entry (30_encoding.md R83): an object id and its field descriptors, in order. A descriptor is
kept as its raw 32-bit word, so that a configuration that is not well-formed can be presented and refused. -/
structure LayoutEntry where
  oid : Word
  descs : List Word
deriving DecidableEq, Repr

/-- The parameters of 00_scope.md R8 that are sampled at RESET (70_reset_and_hazards.md R234). -/
structure Config where
  syncVal : Byte
  version : Nibble
  typeObj : Nibble
  typeObjReq : Nibble
  typeObjAck : Nibble
  typeAck : Nibble
  typeNack : Nibble
  lenCountsInstance : Bool
  layouts : List LayoutEntry
  nslots : Nat
deriving DecidableEq, Repr

/-- `POLY`, the generator polynomial, fixed at design time (R8, R234). -/
def Config.poly : Byte := 0x07

/-- `HDR_LEN` (R8): sync, msg_type, length and object id. -/
def Config.hdrLen : Nat := 8

/-- `LEN_MAX` (R8): header length + 255. -/
def Config.lenMax : Nat := 263

/-- `PAYLOAD_CAP` (R8): the cells of the payload buffer. -/
def Config.payloadCap : Nat := 255

/-- The defaults of 00_scope.md R8. PRESUMED: `SYNC_VAL`, `VERSION` and the type codes are general
knowledge in the spec itself (unsafe if a statement rested on them; log 6). DESIGN CHOICE: the spec gives no
`LAYOUTS` and no `NSLOTS`; the empty table and 16 slots stand here (unsafe; log 5). Statements are about
every configuration. -/
def Config.default : Config where
  syncVal := 0x3C
  version := 0x2
  typeObj := 0x0
  typeObjReq := 0x1
  typeObjAck := 0x2
  typeAck := 0x3
  typeNack := 0x4
  lenCountsInstance := true
  layouts := []
  nslots := 16

/-- FREE VALUE (10_state.md R32, D27): what an outside read of a message register or of `data` returns while
no message is held, by the moment (steps taken so far), the thing read (its number), and the number of the
read in that moment. Nothing constrains it (safe; log 14). -/
opaque Config.deadRead : Nat → Nat → Nat → Word

end Sys2Proof
end

