-- ==== Sys2Proof/Syntax.lean ====
section
/-! DEFINITION. The rows of spec/opcode_table.json, one constructor each, and the words of the five encoding
tables of spec 30_encoding.md. -/

namespace Sys2Proof

/-- The seven kinds of field (30_encoding.md R84). -/
inductive FieldKind where
  | u8 | i8 | u16 | i16 | u32 | i32 | f32
deriving DecidableEq, Repr

/-- One row of the opcode table with its operands.

* Action rows (R80, R81): `rxNone` to `reservedAction111`.
* The CRC port row (R86): `crcStep`.
* Descriptor rows (R82): `extU8` to `reservedKind8to15`.
* msg_type rows (R72): `msgObj` to `msgVersionCheck`.
* Codec-step rows (R88): `rxIdleSync` to `rxIllFormedState`. -/
inductive Instr where
  -- actions (30_encoding.md R80)
  | rxNone
  | rxByte (b : Byte)
  | rxError
  | dispatch
  | reset
  | reservedAction101 (x : Byte)
  | reservedAction110 (x : Byte)
  | reservedAction111 (x : Byte)
  -- CRC port (R86)
  | crcStep (a b : Byte)
  -- field descriptors (R82)
  | extU8 (offset dest : Byte)
  | extI8 (offset dest : Byte)
  | extU16 (offset dest : Byte)
  | extI16 (offset dest : Byte)
  | extU32 (offset dest : Byte)
  | extI32 (offset dest : Byte)
  | extF32 (offset dest : Byte)
  | reservedKind7 (rest : BitVec 28)
  | reservedKind8to15 (rest : BitVec 31)
  -- msg_type bytes (R72)
  | msgObj
  | msgObjReq
  | msgObjAck
  | msgAck
  | msgNack
  | msgReserved25
  | msgReserved26
  | msgReserved27
  | msgReserved28
  | msgReserved29
  | msgReserved2A
  | msgReserved2B
  | msgReserved2C
  | msgReserved2D
  | msgReserved2E
  | msgReserved2F
  | msgVersionCheck (ty : Nibble)
  -- codec steps (R88)
  | rxIdleSync
  | rxIdleOther (b : Byte)
  | rxGotSyncVersionOk (ty : Nibble)
  | rxGotSyncBadVersion (b : Byte)
  | rxReadingLength (b : Byte)
  | rxReadingObjectId (b : Byte)
  | rxReadingInstanceId (b : Byte)
  | rxReadingData (b : Byte)
  | rxAwaitCrc (b : Byte)
  | rxIllFormedState (b : Byte)
deriving DecidableEq, Repr

/-- A word together with the encoding table it belongs to. The five tables share bit patterns (the action
word 0x100 is RX_BYTE(0), the codec-step key 0x100 is a byte 0 in GotSync), so a word alone does not name a
row. DESIGN CHOICE: the tag (log 1; safe: it adds words no hardware interface carries, and takes none away). -/
inductive CodeWord where
  | action (w : BitVec 11)
  | crcPort (w : BitVec 16)
  | descriptor (w : BitVec 32)
  | msgType (w : BitVec 8)
  | codecKey (w : BitVec 11)
deriving DecidableEq, Repr

end Sys2Proof
end

