-- ==== Sys2Proof/Machine/Operands.lean ====
section
/-! DEFINITION. Operand forms: the fields of a msg_type byte, the lengths and counts of a frame, the field
kinds of a descriptor, and the conditions a configuration must meet (spec 30_encoding.md R72, R82 to R85,
41_frame_codec.md R122 to R128, 42_field_extractor.md R172, R173, R176, 00_scope.md R9). -/

namespace Sys2Proof.Machine

/-! ### The msg_type byte (30_encoding.md R72) -/

/-- `b[7:4]`. -/
def hiNibble (b : Byte) : Nibble := b.extractLsb' 4 4

/-- `b[3:0]`. -/
def loNibble (b : Byte) : Nibble := b.extractLsb' 0 4

/-- `{version, ty}` (R10: the first part in the upper bits). -/
def typeByte (version ty : Nibble) : Byte := version ++ ty

/-- `VersionOk(b)` (41_frame_codec.md R127): only the upper nibble is checked. -/
def versionOk (cfg : Config) (b : Byte) : Bool := hiNibble b == cfg.version

/-- The message types of R72; `reserved` is every other value of the lower nibble. -/
inductive MsgKind where
  | obj | objReq | objAck | ack | nack | reserved
deriving DecidableEq, Repr

/-- The message type a lower nibble selects (R72). OBJ_ACK is tested first because 41_frame_codec.md R136
tests `m_type[3:0] = TYPE_OBJ_ACK` and nothing else; with the distinct codes of 00_scope.md R9 the order does
not matter. -/
def msgKind (cfg : Config) (ty : Nibble) : MsgKind :=
  if ty = cfg.typeObjAck then .objAck
  else if ty = cfg.typeObj then .obj
  else if ty = cfg.typeObjReq then .objReq
  else if ty = cfg.typeAck then .ack
  else if ty = cfg.typeNack then .nack
  else .reserved

/-! ### Lengths and counts -/

/-- `LenOk(L)` (41_frame_codec.md R128), on the value as a natural number (R164 item 4). -/
def lenOk (len : Half) : Bool :=
  decide (Config.hdrLen ≤ len.toNat) && decide (len.toNat ≤ Config.lenMax)

/-- `DataCount(L)` (R122). DESIGN CHOICE: a natural number, so that it says something for lengths outside
`HDR_LEN < L ≤ LEN_MAX` too, where R164 item 3 says it is not called (safe; log 12). -/
def dataCount (cfg : Config) (len : Half) : Nat :=
  if cfg.lenCountsInstance then
    if 10 ≤ len.toNat then len.toNat - 10 else 0
  else len.toNat - 8

/-- `RxDataCount(L)` (R123). -/
def rxDataCount (cfg : Config) (len : Half) : Nat :=
  if len.toNat = Config.hdrLen then 0 else dataCount cfg len

/-- A byte placed at byte `k` of a u16, within the stated width (R132, R134: `zext_16(b) << 8*k`). -/
def placeHalf (b : Byte) (k : Nat) : Half := b.zeroExtend 16 <<< (8 * k)

/-- A byte placed at byte `k` of a u32 (R133: `zext_32(b) << 8*k`). -/
def placeWord (b : Byte) (k : Nat) : Word := b.zeroExtend 32 <<< (8 * k)

/-- Byte `k` of a u32, `v[8k+7:8k]`. -/
def byteOfWord (v : Word) (k : Nat) : Byte := v.extractLsb' (8 * k) 8

/-- Byte `k` of a u16. -/
def byteOfHalf (v : Half) (k : Nat) : Byte := v.extractLsb' (8 * k) 8

/-! ### Field kinds (30_encoding.md R84) -/

/-- `width(kind)` in bytes (42_field_extractor.md R173). -/
def fieldWidth : FieldKind → Nat
  | .u8 => 1 | .i8 => 1 | .u16 => 2 | .i16 => 2 | .u32 => 4 | .i32 => 4 | .f32 => 4

/-- `d[31:28]` of a kind (30_encoding.md R82). -/
def kindCode : FieldKind → Nibble
  | .u8 => 0 | .i8 => 1 | .u16 => 2 | .i16 => 3 | .u32 => 4 | .i32 => 5 | .f32 => 6

/-- The kind a code names; 7 to 15 are reserved (R82). -/
def kindOfCode (c : Nibble) : Option FieldKind :=
  match c.toNat with
  | 0 => some .u8 | 1 => some .i8 | 2 => some .u16 | 3 => some .i16
  | 4 => some .u32 | 5 => some .i32 | 6 => some .f32
  | _ => none

/-- The slot value of a raw little-endian read (42_field_extractor.md R176, R193). -/
def extendField (k : FieldKind) (raw : Word) : Word :=
  match k with
  | .u8 => (raw.truncate 8).zeroExtend 32
  | .i8 => (raw.truncate 8).signExtend 32
  | .u16 => (raw.truncate 16).zeroExtend 32
  | .i16 => (raw.truncate 16).signExtend 32
  | .u32 => raw
  | .i32 => raw
  | .f32 => raw

/-! ### Field descriptors (30_encoding.md R82) -/

def descKindCode (d : Word) : Nibble := d.extractLsb' 28 4
def descReserved (d : Word) : BitVec 12 := d.extractLsb' 16 12
def descOffset (d : Word) : Byte := d.extractLsb' 8 8
def descDest (d : Word) : Byte := d.extractLsb' 0 8

/-- The descriptor word of a field. -/
def descWord (k : FieldKind) (offset dest : Byte) : Word :=
  kindCode k ++ (0 : BitVec 12) ++ offset ++ dest

/-- The fields of a descriptor with a named kind and zero reserved bits (42_field_extractor.md R172 item 2). -/
def descFields (d : Word) : Option (FieldKind × Byte × Byte) :=
  if descReserved d = 0 then
    (kindOfCode (descKindCode d)).map fun k => (k, descOffset d, descDest d)
  else none

/-- R172 items 3 and 4: the field lies inside the payload buffer and its slot exists. On natural numbers
(R193), so an offset near 255 does not wrap. -/
def fieldFits (cfg : Config) (k : FieldKind) (offset dest : Byte) : Bool :=
  decide (offset.toNat + fieldWidth k ≤ Config.payloadCap) && decide (dest.toNat < cfg.nslots)

/-- R172 items 2 to 4 for one descriptor. -/
def descOk (cfg : Config) (d : Word) : Bool :=
  match descFields d with
  | some (k, offset, dest) => fieldFits cfg k offset dest
  | none => false

/-! ### The conditions on a configuration -/

/-- `LAYOUTS` is well-formed (R172). -/
def layoutsOk (cfg : Config) : Bool :=
  decide (cfg.layouts.map LayoutEntry.oid).Nodup &&
    cfg.layouts.all fun e => e.descs.all (descOk cfg)

/-- The other conditions of 00_scope.md R9: the type codes are pairwise distinct and `NSLOTS ≥ 1`. DEDUCED:
`NSLOTS ≤ 256` from its type 1..256 in R8 (safe; log 16). -/
def paramsOk (cfg : Config) : Bool :=
  decide [cfg.typeObj, cfg.typeObjReq, cfg.typeObjAck, cfg.typeAck, cfg.typeNack].Nodup &&
    decide (1 ≤ cfg.nslots) && decide (cfg.nslots ≤ 256)

/-- `lookup(oid)` (42_field_extractor.md R175). -/
def lookupLayout (oid : Word) : List LayoutEntry → Option (List Word)
  | [] => none
  | e :: es => if e.oid = oid then some e.descs else lookupLayout oid es

end Sys2Proof.Machine
end

