-- ==== Sys2Proof/WellFormed.lean ====
section
/-! DEFINITION. When an instruction is one a decoder of a given configuration can give, and, for a field
descriptor, one that a well-formed configuration can hold (spec 30_encoding.md R87). -/

namespace Sys2Proof

open Machine in
/-- * A descriptor must fit the payload buffer and name a slot (42_field_extractor.md R172 items 3 and 4).
* `msgReserved2x` stands for its nibble only where no type code has that value (30_encoding.md R72), and
  `msgVersionCheck`, the row with the type nibble open, only for a nibble no other row names (R88: the most
  specific row is taken first; log 11).
* `rxIdleOther` is not the sync byte and `rxGotSyncBadVersion` has another version (R88).
Every other row is well-formed with every operand. -/
def Instr.wellFormed (cfg : Config) : Instr → Bool
  | .extU8 o d => fieldFits cfg .u8 o d
  | .extI8 o d => fieldFits cfg .i8 o d
  | .extU16 o d => fieldFits cfg .u16 o d
  | .extI16 o d => fieldFits cfg .i16 o d
  | .extU32 o d => fieldFits cfg .u32 o d
  | .extI32 o d => fieldFits cfg .i32 o d
  | .extF32 o d => fieldFits cfg .f32 o d
  | .msgReserved25 => msgKind cfg 0x5 == .reserved
  | .msgReserved26 => msgKind cfg 0x6 == .reserved
  | .msgReserved27 => msgKind cfg 0x7 == .reserved
  | .msgReserved28 => msgKind cfg 0x8 == .reserved
  | .msgReserved29 => msgKind cfg 0x9 == .reserved
  | .msgReserved2A => msgKind cfg 0xA == .reserved
  | .msgReserved2B => msgKind cfg 0xB == .reserved
  | .msgReserved2C => msgKind cfg 0xC == .reserved
  | .msgReserved2D => msgKind cfg 0xD == .reserved
  | .msgReserved2E => msgKind cfg 0xE == .reserved
  | .msgReserved2F => msgKind cfg 0xF == .reserved
  | .msgVersionCheck ty => msgKind cfg ty == .reserved && decide (ty.toNat < 5)
  | .rxIdleOther b => b != cfg.syncVal
  | .rxGotSyncBadVersion b => !versionOk cfg b
  | .rxNone => true
  | .rxByte _ => true
  | .rxError => true
  | .dispatch => true
  | .reset => true
  | .reservedAction101 _ => true
  | .reservedAction110 _ => true
  | .reservedAction111 _ => true
  | .crcStep _ _ => true
  | .reservedKind7 _ => true
  | .reservedKind8to15 _ => true
  | .msgObj => true
  | .msgObjReq => true
  | .msgObjAck => true
  | .msgAck => true
  | .msgNack => true
  | .rxIdleSync => true
  | .rxGotSyncVersionOk _ => true
  | .rxReadingLength _ => true
  | .rxReadingObjectId _ => true
  | .rxReadingInstanceId _ => true
  | .rxReadingData _ => true
  | .rxAwaitCrc _ => true
  | .rxIllFormedState _ => true

end Sys2Proof
end

