-- ==== Sys2Proof/Decode.lean ====
section
/-! DEFINITION. The decoder of the five encoding tables of spec 30_encoding.md, total on any word and rejecting
by name; then the encoder; then the host's numbered view of the opcode table. -/

namespace Sys2Proof

open Machine

/-- Why a word names no row. -/
inductive DecodeError where
  /-- A non-zero data byte under an action code other than 001 (30_encoding.md R81). -/
  | reservedAction
  /-- Non-zero bits [27:16] in a descriptor of a named kind (R82, R87). -/
  | badDescriptor
deriving DecidableEq, Repr

/-- The action word (R80, R81): code in [10:8], data byte in [7:0]. -/
def decodeAction (w : BitVec 11) : Except DecodeError Instr :=
  let b : Byte := w.extractLsb' 0 8
  let plain (i : Instr) : Except DecodeError Instr :=
    if b = 0 then .ok i else .error .reservedAction
  match (w.extractLsb' 8 3).toNat with
  | 0 => plain .rxNone
  | 1 => .ok (.rxByte b)
  | 2 => plain .rxError
  | 3 => plain .dispatch
  | 4 => plain .reset
  | 5 => .ok (.reservedAction101 b)
  | 6 => .ok (.reservedAction110 b)
  | _ => .ok (.reservedAction111 b)

/-- The CRC port operand (R86): accumulator in [15:8], byte in [7:0]. -/
def decodeCrcPort (w : BitVec 16) : Instr :=
  .crcStep (w.extractLsb' 8 8) (w.extractLsb' 0 8)

/-- The extraction row of a kind (42_field_extractor.md R182 to R188). -/
def extInstr : FieldKind → Byte → Byte → Instr
  | .u8 => .extU8 | .i8 => .extI8 | .u16 => .extU16 | .i16 => .extI16
  | .u32 => .extU32 | .i32 => .extI32 | .f32 => .extF32

/-- The field descriptor (R82). The reserved kinds are rows of the table whatever their other bits are. -/
def decodeDescriptor (d : BitVec 32) : Except DecodeError Instr :=
  match descFields d with
  | some (k, offset, dest) => .ok (extInstr k offset dest)
  | none =>
    if 8 ≤ (descKindCode d).toNat then .ok (.reservedKind8to15 (d.extractLsb' 0 31))
    else if descKindCode d = 7 then .ok (.reservedKind7 (d.extractLsb' 0 28))
    else .error .badDescriptor

/-- The row of a type nibble that no type code has: the eleven reserved rows 0x25 to 0x2F, and for a nibble
below 5, which is reserved only under other codes than the defaults, the row with the type nibble open. -/
def reservedTypeInstr (ty : Nibble) : Instr :=
  match ty.toNat with
  | 5 => .msgReserved25 | 6 => .msgReserved26 | 7 => .msgReserved27 | 8 => .msgReserved28
  | 9 => .msgReserved29 | 10 => .msgReserved2A | 11 => .msgReserved2B | 12 => .msgReserved2C
  | 13 => .msgReserved2D | 14 => .msgReserved2E | 15 => .msgReserved2F
  | _ => .msgVersionCheck ty

/-- The msg_type byte (R72, R87). A byte of another version is the codec's bad-version row (R88). -/
def decodeMsgType (cfg : Config) (b : Byte) : Instr :=
  if versionOk cfg b then
    match msgKind cfg (loNibble b) with
    | .obj => .msgObj
    | .objReq => .msgObjReq
    | .objAck => .msgObjAck
    | .ack => .msgAck
    | .nack => .msgNack
    | .reserved => reservedTypeInstr (loNibble b)
  else .rxGotSyncBadVersion b

/-- The codec-step key `{st, b}` (R88), most specific row first. -/
def decodeCodecKey (cfg : Config) (w : BitVec 11) : Instr :=
  let b : Byte := w.extractLsb' 0 8
  match (w.extractLsb' 8 3).toNat with
  | 0 => if b = cfg.syncVal then .rxIdleSync else .rxIdleOther b
  | 1 => if versionOk cfg b then .rxGotSyncVersionOk (loNibble b) else .rxGotSyncBadVersion b
  | 2 => .rxReadingLength b
  | 3 => .rxReadingObjectId b
  | 4 => .rxReadingInstanceId b
  | 5 => .rxReadingData b
  | 6 => .rxAwaitCrc b
  | _ => .rxIllFormedState b

/-- The instruction a word is, in its own table. -/
def decode (cfg : Config) : CodeWord → Except DecodeError Instr
  | .action w => decodeAction w
  | .crcPort w => .ok (decodeCrcPort w)
  | .descriptor d => decodeDescriptor d
  | .msgType b => .ok (decodeMsgType cfg b)
  | .codecKey w => .ok (decodeCodecKey cfg w)

/-! ### The encoder -/

/-- An action word from its code and data byte (R80). -/
def actionWord (code : BitVec 3) (b : Byte) : CodeWord := .action (code ++ b)

/-- A codec-step key from its state code and byte (R88). -/
def keyWord (st : BitVec 3) (b : Byte) : CodeWord := .codecKey (st ++ b)

/-- The word of an instruction, in its own table. -/
def encode (cfg : Config) : Instr → CodeWord
  | .rxNone => actionWord 0 0
  | .rxByte b => actionWord 1 b
  | .rxError => actionWord 2 0
  | .dispatch => actionWord 3 0
  | .reset => actionWord 4 0
  | .reservedAction101 x => actionWord 5 x
  | .reservedAction110 x => actionWord 6 x
  | .reservedAction111 x => actionWord 7 x
  | .crcStep a b => .crcPort (a ++ b)
  | .extU8 o d => .descriptor (descWord .u8 o d)
  | .extI8 o d => .descriptor (descWord .i8 o d)
  | .extU16 o d => .descriptor (descWord .u16 o d)
  | .extI16 o d => .descriptor (descWord .i16 o d)
  | .extU32 o d => .descriptor (descWord .u32 o d)
  | .extI32 o d => .descriptor (descWord .i32 o d)
  | .extF32 o d => .descriptor (descWord .f32 o d)
  | .reservedKind7 rest => .descriptor ((7 : BitVec 4) ++ rest)
  | .reservedKind8to15 rest => .descriptor ((1 : BitVec 1) ++ rest)
  | .msgObj => .msgType (typeByte cfg.version cfg.typeObj)
  | .msgObjReq => .msgType (typeByte cfg.version cfg.typeObjReq)
  | .msgObjAck => .msgType (typeByte cfg.version cfg.typeObjAck)
  | .msgAck => .msgType (typeByte cfg.version cfg.typeAck)
  | .msgNack => .msgType (typeByte cfg.version cfg.typeNack)
  | .msgReserved25 => .msgType (typeByte cfg.version 0x5)
  | .msgReserved26 => .msgType (typeByte cfg.version 0x6)
  | .msgReserved27 => .msgType (typeByte cfg.version 0x7)
  | .msgReserved28 => .msgType (typeByte cfg.version 0x8)
  | .msgReserved29 => .msgType (typeByte cfg.version 0x9)
  | .msgReserved2A => .msgType (typeByte cfg.version 0xA)
  | .msgReserved2B => .msgType (typeByte cfg.version 0xB)
  | .msgReserved2C => .msgType (typeByte cfg.version 0xC)
  | .msgReserved2D => .msgType (typeByte cfg.version 0xD)
  | .msgReserved2E => .msgType (typeByte cfg.version 0xE)
  | .msgReserved2F => .msgType (typeByte cfg.version 0xF)
  | .msgVersionCheck ty => .msgType (typeByte cfg.version ty)
  | .rxIdleSync => keyWord 0 cfg.syncVal
  | .rxIdleOther b => keyWord 0 b
  | .rxGotSyncVersionOk ty => keyWord 1 (typeByte cfg.version ty)
  | .rxGotSyncBadVersion b => keyWord 1 b
  | .rxReadingLength b => keyWord 2 b
  | .rxReadingObjectId b => keyWord 3 b
  | .rxReadingInstanceId b => keyWord 4 b
  | .rxReadingData b => keyWord 5 b
  | .rxAwaitCrc b => keyWord 6 b
  | .rxIllFormedState b => keyWord 7 b

/-! ### The host's view of spec/opcode_table.json -/

/-- Whether a word of at most 11 bits spells an action (R80, R81). -/
def spellsAction (w : Nat) : Bool :=
  match decodeAction (BitVec.ofNat 11 w) with
  | .ok _ => true
  | .error _ => false

/-- The table a bare number of `nbits` bits is read in: the host's table gives a number and a width only.
8 bits are a msg_type byte and 32 a descriptor. Three tables share 16 bits (two of 11 bits, the CRC port of
16): a number that spells an action is read as that action, another below 2^11 as a codec-step key, and one
of 2^11 or more as a CRC port operand. DESIGN CHOICE (log 4): this order serves the host's question only;
the machine's own words carry their table. -/
def tableWord (nbits w : Nat) : Option CodeWord :=
  if nbits ≤ 8 then some (.msgType (BitVec.ofNat 8 w))
  else if nbits ≤ 16 then
    if w < 2048 then
      if spellsAction w then some (.action (BitVec.ofNat 11 w))
      else some (.codecKey (BitVec.ofNat 11 w))
    else some (.crcPort (BitVec.ofNat 16 w))
  else if nbits ≤ 32 then some (.descriptor (BitVec.ofNat 32 w))
  else none

/-- The instruction the decoder reads from a row's word, under the default parameters the table assumes. -/
def decodeTableWord (nbits w : Nat) : Option Instr :=
  match tableWord nbits w with
  | none => none
  | some c =>
    match decode Config.default c with
    | .ok i => some i
    | .error _ => none

end Sys2Proof
end

