-- ==== Sys2Proof/Machine/Crc.lean ====
section
/-! DEFINITION. The CRC-8 lookup engine as plain functions (spec 40_crc8_engine.md R100 to R107; 00_scope.md R7).
PRESUMED: the construction of the table and the lookup form are general knowledge in the spec itself (log 7). -/

namespace Sys2Proof.Machine

/-- One of the eight rounds of R102. -/
def crcRound (poly c : Byte) : Byte :=
  if c.getLsbD 7 then (c <<< 1) ^^^ poly else c <<< 1

/-- `n` rounds. -/
def crcRounds (poly : Byte) : Nat → Byte → Byte
  | 0, c => c
  | n + 1, c => crcRounds poly n (crcRound poly c)

/-- `T[i]` (R102, R39): a function of POLY alone. -/
def crcTable (i : Byte) : Byte := crcRounds Config.poly 8 i

/-- `crc_step(a, b) = T[a ^ b]` (R101). -/
def crcStep (a b : Byte) : Byte := crcTable (a ^^^ b)

/-- `crc_fold(a, s)` (R104). -/
def crcFold (a : Byte) : List Byte → Byte
  | [] => a
  | b :: s => crcFold (crcStep a b) s

end Sys2Proof.Machine
end

