-- ==== Sys2Proof/Machine/State.lean ====
section
/-! DEFINITION. The state of the block as plain data, the reasons a step can stop, and the state after reset
(spec 10_state.md, 60_exceptions.md R201, 70_reset_and_hazards.md R230, R231). -/

namespace Sys2Proof.Machine

/-- `st` (10_state.md R21): seven states, and the code 7 that is never written. -/
inductive CodecState where
  | idle | gotSync | readingLength | readingObjectId | readingInstanceId | readingData | awaitCrc
  /-- Code 7: a model state with it is ill-formed. -/
  | illFormed
deriving DecidableEq, Repr

/-- `verdict` (10_state.md R33). -/
inductive Verdict where
  | none | valid | invalid
deriving DecidableEq, Repr

/-- The cause codes of 60_exceptions.md R201, each with the information its row says is recorded. -/
inductive Cause where
  | idleDiscard (b : Byte)
  | badVersion (b : Byte)
  | badLength (len : Half)
  | crcMismatch (received acc : Byte)
  | unknownObject (oid : Word)
  | transportAbort (before : CodecState)
  | shortField (descriptor : Word)
  | frameValid (oid : Word) (type : Byte) (len : Half)
  | ackSent (oid : Word)
  | reset
deriving DecidableEq, Repr

/-- The step outputs: those of 10_state.md R33 and R36, and the output of the CRC port (40_crc8_engine.md
R101), driven only when an operand is offered to the port. -/
structure Outputs where
  verdict : Verdict
  dispDone : Bool
  dispChanged : Bool
  dispShort : Bool
  crcOut : Option Byte
deriving DecidableEq, Repr

/-- What every step but the one that drives an output leaves on it (R33, R36). -/
def Outputs.idle : Outputs where
  verdict := .none
  dispDone := false
  dispChanged := false
  dispShort := false
  crcOut := none

/-- The block's record (10_state.md R20: these fields and no others). A cell of `data` or `telem` that is not
listed is unwritten (R30, R40). -/
structure Block where
  st : CodecState
  acc : Byte
  cnt : Byte
  mSync : Byte
  mType : Byte
  mLen : Half
  mOid : Word
  mIid : Half
  mCrc : Byte
  data : List Host.Cell
  held : Bool
  txq : List Byte
  telem : List (Nat × Word)
deriving DecidableEq, Repr

/-- Every field at the reset value its rule in 10_state.md gives (70_reset_and_hazards.md R230). -/
def Block.reset : Block where
  st := .idle
  acc := 0
  cnt := 0
  mSync := 0
  mType := 0
  mLen := 0
  mOid := 0
  mIid := 0
  mCrc := 0
  data := []
  held := false
  txq := []
  telem := []

/-- The machine: the block, and beside it the step outputs, the observation trace (10_state.md R41), the
parameters in force and those the host presents (70_reset_and_hazards.md R234), and the model's own fields:
the inputs still to be offered, the reset request, and the number of steps taken (logs 1, 3, 14). -/
structure State where
  blk : Block
  out : Outputs
  trace : List Cause
  cfg : Config
  hostCfg : Config
  script : List CodeWord
  resetReq : Bool
  steps : Nat
deriving DecidableEq, Repr

/-- The state power-on leaves (70_reset_and_hazards.md R231): the trace was empty before RESET appended its
code. DESIGN CHOICE: the configuration (log 5), no input waiting (log 2), no step counted (log 14). -/
def State.reset : State where
  blk := Block.reset
  out := Outputs.idle
  trace := [.reset]
  cfg := Config.default
  hostCfg := Config.default
  script := []
  resetReq := false
  steps := 0

/-- Why the machine stops with a fault (00_scope.md R11: the model has no meaning for the step). -/
inductive Fault where
  /-- RX_BYTE in a state with `st` = 7 (41_frame_codec.md R125). Safe: no run reaches it. -/
  | illFormedState
  /-- A payload write at an index of 255 or more, with nothing written (20_memory.md R52). Safe: no run
  reaches it (R62). -/
  | payloadOverrun
  /-- A payload read of an unwritten cell (20_memory.md R53). Safe: no run reaches it. -/
  | unwrittenPayload
  /-- An outside read of a telemetry slot that no DISPATCH has written (10_state.md R40). Safe. -/
  | unwrittenSlot
  /-- A read of a cell outside 0 to 254 of `data` or 0 to NSLOTS-1 of `telem`, which the address map of
  20_memory.md R60 does not have. Safe (log 13). -/
  | noSuchCell
deriving DecidableEq, Repr

/-- Why the machine refuses a word or a configuration. -/
inductive Refusal where
  /-- An instruction with no meaning yet. None is left. -/
  | notModelled (mnemonic : String)
  /-- An action word that spells no action (30_encoding.md R81). Safe: the spec refuses it. -/
  | reservedAction
  /-- A descriptor or layout table that is not well-formed (42_field_extractor.md R172). Safe: the spec
  refuses it. -/
  | badLayout
  /-- Another condition of 00_scope.md R9 fails. Safe: the spec refuses it. -/
  | badConfiguration
  /-- An action that is not enabled (60_exceptions.md R204, 93_implementation_defined.md I13). Safe: the spec
  refuses it. -/
  | notEnabled
  /-- A codec-step or msg_type word whose row the state does not select (30_encoding.md R88). Safe (log 10). -/
  | rowNotSelected
deriving DecidableEq, Repr

end Sys2Proof.Machine
end

