-- ==== Sys2Proof/Machine/Flags.lean ====
section
/-! DEFINITION. The outputs that stand where a processor has flags (spec 10_state.md R33, R34, R36, R37;
42_field_extractor.md R178, R179), and the numbers of the cause codes (60_exceptions.md R201). -/

namespace Sys2Proof.Machine

/-- `rx_ready = not held` (10_state.md R34). -/
def rxReady (s : State) : Bool := !s.blk.held

/-- The outputs of a step that gives a verdict or none and drives nothing else (R33, R36). -/
def verdictOutputs (v : Verdict) : Outputs := { Outputs.idle with verdict := v }

/-- The outputs of a CRC port evaluation (40_crc8_engine.md R101). -/
def crcOutputs (y : Byte) : Outputs := { Outputs.idle with crcOut := some y }

/-- A slot write counts as a change when the cell was unwritten or held another pattern (R179). -/
def isChange (old : Option Word) (v : Word) : Bool := decide (old ≠ some v)

/-- `changed` after one more slot write. -/
def Outputs.noteWrite (o : Outputs) (changed : Bool) : Outputs :=
  { o with dispChanged := o.dispChanged || changed }

/-- `short := true` (R178). -/
def Outputs.noteShort (o : Outputs) : Outputs := { o with dispShort := true }

/-- The outputs at the end of a DISPATCH (R180): `changed` and `short` as collected, `disp_done` true. -/
def Outputs.finishDispatch (o : Outputs) : Outputs := { o with dispDone := true }

/-- The outputs with which a piece of a DISPATCH that runs on its own goes on: `changed` and `short` as
collected so far, everything else idle (log 19). -/
def Outputs.goOn (o : Outputs) : Outputs :=
  { Outputs.idle with dispChanged := o.dispChanged, dispShort := o.dispShort }

/-- The code of a cause (60_exceptions.md R201). -/
def causeCode : Cause → Nat
  | .idleDiscard _ => 1
  | .badVersion _ => 2
  | .badLength _ => 3
  | .crcMismatch _ _ => 4
  | .unknownObject _ => 5
  | .transportAbort _ => 6
  | .shortField _ => 7
  | .frameValid _ _ _ => 8
  | .ackSent _ => 9
  | .reset => 10

/-- The 3-bit code of a codec state (10_state.md R21). -/
def stateCode : CodecState → BitVec 3
  | .idle => 0 | .gotSync => 1 | .readingLength => 2 | .readingObjectId => 3
  | .readingInstanceId => 4 | .readingData => 5 | .awaitCrc => 6 | .illFormed => 7

/-- The codec state of a 3-bit code. -/
def stateOfCode (c : BitVec 3) : CodecState :=
  match c.toNat with
  | 0 => .idle | 1 => .gotSync | 2 => .readingLength | 3 => .readingObjectId
  | 4 => .readingInstanceId | 5 => .readingData | 6 => .awaitCrc | _ => .illFormed

end Sys2Proof.Machine
end

