-- ==== Sys2Proof/Machine/Ops.lean ====
section
/-! DEFINITION. The named operations over the registers and stores that every meaning is written with (spec
00_scope.md R11): register and output writes, the stores, the drop, the verdict, the acknowledgement, one field
extraction, the enabling conditions, and the next input of a step. -/

namespace Sys2Proof.Machine

/-- What a step answers. -/
abbrev Result := Host.Outcome State Fault Refusal

/-! ### Writing the state -/

/-- Write the block's record. -/
def State.setBlk (s : State) (b : Block) : State := { s with blk := b }

/-- Drive the step outputs. -/
def State.setOut (s : State) (o : Outputs) : State := { s with out := o }

/-- `trace(code)` (00_scope.md R11, 10_state.md R41): append. -/
def State.addTrace (s : State) (c : Cause) : State := { s with trace := s.trace ++ [c] }

/-- `emit_verdict(V)` (00_scope.md R11): the step drives this verdict and no dispatcher output. -/
def State.emitVerdict (s : State) (v : Verdict) : State := s.setOut (verdictOutputs v)

/-- `fold(b)` (41_frame_codec.md R121). -/
def Block.fold (x : Block) (b : Byte) : Block := { x with acc := crcStep x.acc b }

/-- Continue with the state of a result that goes on; a fault or a refusal ends. -/
def Result.andThen (r : Result) (f : State → Result) : Result :=
  match r with
  | .next s => f s
  | .fault e => .fault e
  | .refused e => .refused e

/-! ### The stores (20_memory.md R50): sparse lists in canonical form -/

/-- The value of a cell, or none where it is unwritten. -/
def storeRead {α : Type} (i : Nat) : List (Nat × α) → Option α
  | [] => none
  | (j, v) :: m => if i = j then some v else storeRead i m

/-- Write a cell, keeping the addresses strictly rising. -/
def storeWrite {α : Type} (i : Nat) (v : α) : List (Nat × α) → List (Nat × α)
  | [] => [(i, v)]
  | (j, w) :: m =>
    if i < j then (i, v) :: (j, w) :: m
    else if i = j then (i, v) :: m
    else (j, w) :: storeWrite i v m

/-- The canonical form: addresses strictly rising. An unlisted cell is unwritten, so no entry equals what an
unlisted cell reads as. -/
def storeWf {α : Type} : List (Nat × α) → Bool
  | [] => true
  | [_] => true
  | (i, _) :: (j, w) :: m => decide (i < j) && storeWf ((j, w) :: m)

/-- Every listed address is below a bound. -/
def storeBelow {α : Type} (n : Nat) (m : List (Nat × α)) : Bool := m.all fun c => decide (c.1 < n)

/-- `MemWrite(data, i, 1, v)` (20_memory.md R52): `none` stands for Fault(PayloadOverrun), nothing written. -/
def memWrite (m : List Host.Cell) (i : Nat) (v : Byte) : Option (List Host.Cell) :=
  if i < Config.payloadCap then some (storeWrite i v m) else none

/-- The little-endian value of `n` cells from `i` on (R53, R54); none if one of them is unwritten. -/
def readLE (m : List Host.Cell) (i : Nat) : Nat → Option Word
  | 0 => some 0
  | n + 1 =>
    match storeRead i m, readLE m (i + 1) n with
    | some b, some rest => some (b.zeroExtend 32 ||| (rest <<< 8))
    | _, _ => none

/-- `MemRead(data, i, n)` for n of 1, 2 or 4 (20_memory.md R53). A read past the last cell has no cell to
read (log 13). -/
def memRead (m : List Host.Cell) (i n : Nat) : Except Fault Word :=
  if i + n ≤ Config.payloadCap then
    match readLE m i n with
    | some v => .ok v
    | none => .error .unwrittenPayload
  else .error .noSuchCell

/-! ### Taking the block's nearest thing to an exception: a drop (41_frame_codec.md R129, 60_exceptions.md R205) -/

/-- `drop(cause)`: the cause is recorded and `st <- Idle`; the verdict is NONE, nothing is saved, and every
other register keeps its (dead) value. There is no return (60_exceptions.md R206). -/
def State.drop (s : State) (c : Cause) : State :=
  ((s.setBlk { s.blk with st := .idle }).addTrace c).emitVerdict .none

/-! ### The acknowledgement (41_frame_codec.md R137, 30_encoding.md R79) -/

/-- The eight bytes before the crc of a header-only frame of a type (30_encoding.md R79, R89). -/
def headerBytes (cfg : Config) (ty : Nibble) (oid : Word) : List Byte :=
  [cfg.syncVal, typeByte cfg.version ty, 0x08, 0x00,
    byteOfWord oid 0, byteOfWord oid 1, byteOfWord oid 2, byteOfWord oid 3]

/-- The nine bytes of an acknowledgement. -/
def ackFrame (cfg : Config) (oid : Word) : List Byte :=
  headerBytes cfg cfg.typeAck oid ++ [crcFold 0 (headerBytes cfg cfg.typeAck oid)]

/-- `emit_ack(m_oid)`. -/
def State.emitAck (s : State) : State :=
  (s.setBlk { s.blk with txq := s.blk.txq ++ ackFrame s.cfg s.blk.mOid }).addTrace (.ackSent s.blk.mOid)

/-- The side effect of each message type on a VALID frame (R150 to R155): only OBJ_ACK has one. -/
def State.treatMessage (s : State) : MsgKind → State
  | .obj => s
  | .objReq => s
  | .objAck => s.emitAck
  | .ack => s
  | .nack => s
  | .reserved => s

/-! ### One step of the codec in each state (41_frame_codec.md R130 to R136) -/

/-- R130, the sync byte. -/
def State.startFrame (s : State) (b : Byte) : State :=
  (s.setBlk { s.blk with
    acc := crcStep 0 b, mSync := b, mType := 0, mLen := 0, mOid := 0, mIid := 0,
    cnt := 0, st := .gotSync }).emitVerdict .none

/-- R130, any other byte. -/
def State.discardByte (s : State) (b : Byte) : State := (s.addTrace (.idleDiscard b)).emitVerdict .none

/-- R131, the version matches. -/
def State.acceptType (s : State) (b : Byte) : State :=
  (s.setBlk { s.blk.fold b with mType := b, cnt := 0, st := .readingLength }).emitVerdict .none

/-- R131, the version does not match: the byte is folded and the frame dropped. -/
def State.rejectType (s : State) (b : Byte) : State := (s.setBlk (s.blk.fold b)).drop (.badVersion b)

/-- R132. -/
def State.takeLength (s : State) (b : Byte) : State :=
  let x := s.blk.fold b
  if x.cnt = 0 then
    (s.setBlk { x with mLen := b.zeroExtend 16, cnt := 1 }).emitVerdict .none
  else
    let len := x.mLen ||| placeHalf b 1
    let y := { x with mLen := len, cnt := 0 }
    if lenOk len then (s.setBlk { y with st := .readingObjectId }).emitVerdict .none
    else (s.setBlk y).drop (.badLength len)

/-- R133: the `cnt` tested is the one after the increment, done in u8 (R164 item 2). -/
def State.takeObjectId (s : State) (b : Byte) : State :=
  let x := s.blk.fold b
  let y := { x with mOid := x.mOid ||| placeWord b x.cnt.toNat, cnt := x.cnt + 1 }
  (s.setBlk
    (if y.cnt = 4 then
      { y with cnt := 0,
               st := if y.mLen.toNat = Config.hdrLen then .awaitCrc else .readingInstanceId }
    else y)).emitVerdict .none

/-- R134. -/
def State.takeInstanceId (s : State) (b : Byte) : State :=
  let x := s.blk.fold b
  let y := { x with mIid := x.mIid ||| placeHalf b x.cnt.toNat, cnt := x.cnt + 1 }
  (s.setBlk
    (if y.cnt = 2 then
      { y with cnt := 0, st := if dataCount s.cfg y.mLen = 0 then .awaitCrc else .readingData }
    else y)).emitVerdict .none

/-- R135: MemWrite may fault (20_memory.md R52), in a state that no run reaches (R62). -/
def State.takeData (s : State) (b : Byte) : Result :=
  let x := s.blk.fold b
  match memWrite x.data x.cnt.toNat b with
  | none => .fault .payloadOverrun
  | some m =>
    let y := { x with data := m, cnt := x.cnt + 1 }
    .next ((s.setBlk
      (if y.cnt.toNat = dataCount s.cfg y.mLen then { y with cnt := 0, st := .awaitCrc } else y)).emitVerdict .none)

/-- R136, the trailing CRC byte equals `acc`: VALID, the hold, and the side effect of the message type. -/
def State.acceptFrame (s : State) (b : Byte) : State :=
  let t := (s.setBlk { s.blk with mCrc := b, st := .idle, held := true }).emitVerdict .valid
  (t.addTrace (.frameValid s.blk.mOid s.blk.mType s.blk.mLen)).treatMessage
    (msgKind s.cfg (loNibble s.blk.mType))

/-- R136, it does not: INVALID. -/
def State.rejectFrame (s : State) (b : Byte) : State :=
  ((s.setBlk { s.blk with mCrc := b, st := .idle }).addTrace (.crcMismatch b s.blk.acc)).emitVerdict .invalid

/-- R136. -/
def State.takeCrc (s : State) (b : Byte) : State :=
  if b = s.blk.acc then s.acceptFrame b else s.rejectFrame b

/-! ### Enabling (60_exceptions.md R204, 70_reset_and_hazards.md R236) -/

/-- RX_BYTE and RX_ERROR, and the codec's rows, only while no message is held. -/
def State.whenFree (s : State) (r : Result) : Result := if s.blk.held then .refused .notEnabled else r

/-- DISPATCH, and its pieces, only while a message is held. -/
def State.whenHeld (s : State) (r : Result) : Result := if s.blk.held then r else .refused .notEnabled

/-- A row of the codec-step table is taken only in the state of its key (30_encoding.md R88; log 10). -/
def State.inCodecState (s : State) (st : CodecState) (r : Result) : Result :=
  s.whenFree (if s.blk.st = st then r else .refused .rowNotSelected)

/-! ### One field of a DISPATCH (42_field_extractor.md R176 to R179) -/

/-- The slot write of R177, and what it adds to `changed` (R179). -/
def State.writeSlot (s : State) (slot : Nat) (v : Word) : State :=
  (s.setBlk { s.blk with telem := storeWrite slot v s.blk.telem }).setOut
    (s.out.noteWrite (isChange (storeRead slot s.blk.telem) v))

/-- R178. -/
def State.skipShort (s : State) (d : Word) : State := (s.setOut s.out.noteShort).addTrace (.shortField d)

/-- One descriptor, kind, offset and dest named: R176, R177, R178. The comparison is on natural numbers
(R193). -/
def State.extractField (s : State) (k : FieldKind) (offset dest : Byte) : Result :=
  if offset.toNat + fieldWidth k ≤ rxDataCount s.cfg s.blk.mLen then
    match memRead s.blk.data offset.toNat (fieldWidth k) with
    | .ok raw => .next (s.writeSlot dest.toNat (extendField k raw))
    | .error f => .fault f
  else .next (s.skipShort (descWord k offset dest))

/-- One descriptor word of the layout table; one that R172 does not allow is refused. -/
def State.extractWord (s : State) (d : Word) : Result :=
  match descFields d with
  | some (k, offset, dest) =>
    if fieldFits s.cfg k offset dest then s.extractField k offset dest else .refused .badLayout
  | none => .refused .badLayout

/-- The descriptors of an entry, in list order (R180, R189). -/
def extractAll : List Word → State → Result
  | [], s => .next s
  | d :: ds, s => Result.andThen (s.extractWord d) (extractAll ds)

/-- A descriptor row that runs on its own: a piece of the DISPATCH of the held message (log 19). -/
def State.extractAlone (s : State) (k : FieldKind) (offset dest : Byte) : Result :=
  if fieldFits s.cfg k offset dest then
    s.whenHeld ((s.setOut s.out.goOn).extractField k offset dest)
  else .refused .badLayout

/-! ### Configuration and reset (00_scope.md R9, 70_reset_and_hazards.md R230, R234) -/

/-- Why a configuration is refused, if it is. -/
def configRefusal (cfg : Config) : Option Refusal :=
  if paramsOk cfg then if layoutsOk cfg then none else some .badLayout
  else some .badConfiguration

/-- RESET with a well-formed configuration presented: every register of the block to its reset value, the
parameters sampled, the code appended to the trace, the outputs NONE and false. -/
def State.doReset (s : State) : State :=
  { (s.setBlk Block.reset).setOut Outputs.idle with cfg := s.hostCfg, trace := s.trace ++ [.reset] }

/-! ### The input of a step (30_encoding.md R80, 60_exceptions.md R204) -/

/-- The word this step runs: RESET if the reset source asks, whatever else is offered (R204, D26); else the
script's head; else, with the transport silent, RX_NONE (R141; log 2). -/
def State.nextWord (s : State) : CodeWord :=
  if s.resetReq then actionWord 4 0
  else
    match s.script with
    | [] => actionWord 0 0
    | w :: _ => w

/-- The input of the step is used up (with a reset request, the other input of the step is lost: R204), and
the step is counted. -/
def State.consume (s : State) : State :=
  { s with script := s.script.tail, resetReq := false, steps := s.steps + 1 }

/-- The refusal of a word that names no row. -/
def decodeRefusal : DecodeError → Refusal
  | .reservedAction => .reservedAction
  | .badDescriptor => .badLayout

/-- The state in which the block reads words of a table: a codec-step key's upper bits ARE the register `st`
(30_encoding.md R88), a msg_type byte is read in GotSync (41_frame_codec.md R131), a descriptor while a
message is held (42_field_extractor.md R180). Used by `State.withFetchWord` only (log 4). -/
def State.readyFor (s : State) : CodeWord → State
  | .action _ => s
  | .crcPort _ => s
  | .descriptor _ => s.setBlk { s.blk with held := true }
  | .msgType _ => s.setBlk { s.blk with st := .gotSync }
  | .codecKey w => s.setBlk { s.blk with st := stateOfCode (w.extractLsb' 8 3) }

end Sys2Proof.Machine
end

