-- ==== Sys2Proof/Machine/Actions.lean ====
section
/-! DEFINITION. The action rows (spec 30_encoding.md R80): RX_NONE, RX_BYTE, RX_ERROR, RESET and the reserved
action codes. DISPATCH is in Machine/Extractor.lean. -/

namespace Sys2Proof.Machine

/-- RX_NONE (41_frame_codec.md R141): always enabled, no state changes, the verdict is NONE. -/
def execRxNone (s : State) : Result := .next (s.emitVerdict .none)

/-- RX_BYTE(b) (41_frame_codec.md R125): enabled while no message is held; the case on `st`. -/
def execRxByte (b : Byte) (s : State) : Result :=
  s.whenFree
    (match s.blk.st with
    | .idle => .next (if b = s.cfg.syncVal then s.startFrame b else s.discardByte b)
    | .gotSync => .next (if versionOk s.cfg b then s.acceptType b else s.rejectType b)
    | .readingLength => .next (s.takeLength b)
    | .readingObjectId => .next (s.takeObjectId b)
    | .readingInstanceId => .next (s.takeInstanceId b)
    | .readingData => s.takeData b
    | .awaitCrc => .next (s.takeCrc b)
    | .illFormed => .fault .illFormedState)

/-- RX_ERROR (41_frame_codec.md R140): enabled while no message is held. In Idle there is nothing to abort
and only the code is recorded. -/
def execRxError (s : State) : Result :=
  s.whenFree
    (.next (if s.blk.st = .idle then (s.addTrace (.transportAbort s.blk.st)).emitVerdict .none
      else s.drop (.transportAbort s.blk.st)))

/-- RESET (70_reset_and_hazards.md R230): always enabled; refused if the configuration the host presents is
not well-formed (R234; log 16). -/
def execReset (s : State) : Result :=
  match configRefusal s.hostCfg with
  | some r => .refused r
  | none => .next s.doReset

/-- Action code 101 spells no action (30_encoding.md R81). -/
def execReservedAction101 (_ : Byte) (_ : State) : Result := .refused .reservedAction

/-- Action code 110 spells no action (30_encoding.md R81). -/
def execReservedAction110 (_ : Byte) (_ : State) : Result := .refused .reservedAction

/-- Action code 111 spells no action (30_encoding.md R81). -/
def execReservedAction111 (_ : Byte) (_ : State) : Result := .refused .reservedAction

end Sys2Proof.Machine
end

