-- ==== Sys2Proof/Machine/CodecSteps.lean ====
section
/-! DEFINITION. The codec-step rows (spec 30_encoding.md R88): what RX_BYTE does in one state on one kind of
byte, as a row of its own. A row whose key is not the state's is not selected (log 10). -/

namespace Sys2Proof.Machine

/-- RX_BYTE@Idle.sync (41_frame_codec.md R130). -/
def execRxIdleSync (s : State) : Result := s.inCodecState .idle (.next (s.startFrame s.cfg.syncVal))

/-- RX_BYTE@Idle.other (R130): not the sync byte. -/
def execRxIdleOther (b : Byte) (s : State) : Result :=
  s.inCodecState .idle (if b = s.cfg.syncVal then .refused .rowNotSelected else .next (s.discardByte b))

/-- RX_BYTE@GotSync.version_ok (R131): the upper nibble is VERSION, the lower one is any. -/
def execRxGotSyncVersionOk (ty : Nibble) (s : State) : Result :=
  s.inCodecState .gotSync (.next (s.acceptType (typeByte s.cfg.version ty)))

/-- RX_BYTE@GotSync.bad_version (R131). -/
def execRxGotSyncBadVersion (b : Byte) (s : State) : Result :=
  s.inCodecState .gotSync (if versionOk s.cfg b then .refused .rowNotSelected else .next (s.rejectType b))

/-- RX_BYTE@ReadingLength (R132). -/
def execRxReadingLength (b : Byte) (s : State) : Result :=
  s.inCodecState .readingLength (.next (s.takeLength b))

/-- RX_BYTE@ReadingObjectId (R133). -/
def execRxReadingObjectId (b : Byte) (s : State) : Result :=
  s.inCodecState .readingObjectId (.next (s.takeObjectId b))

/-- RX_BYTE@ReadingInstanceId (R134). -/
def execRxReadingInstanceId (b : Byte) (s : State) : Result :=
  s.inCodecState .readingInstanceId (.next (s.takeInstanceId b))

/-- RX_BYTE@ReadingData (R135). -/
def execRxReadingData (b : Byte) (s : State) : Result :=
  s.inCodecState .readingData (s.takeData b)

/-- RX_BYTE@AwaitCrc (R136). -/
def execRxAwaitCrc (b : Byte) (s : State) : Result :=
  s.inCodecState .awaitCrc (.next (s.takeCrc b))

/-- RX_BYTE@ill_formed_state (R125). -/
def execRxIllFormedState (_ : Byte) (s : State) : Result :=
  s.inCodecState .illFormed (.fault .illFormedState)

end Sys2Proof.Machine
end

