-- ==== Sys2Proof/Machine/CrcPort.lean ====
section
/-! DEFINITION. The row of the CRC port (spec 40_crc8_engine.md R101, 30_encoding.md R86). -/

namespace Sys2Proof.Machine

/-- CRC_STEP: the port answers `crc_step(a, b)`; the engine has no state and no other effect (R100, R101).
DESIGN CHOICE: an evaluation of the port takes a model step that performs no action, so the other step outputs
are idle (log 9; safe). -/
def execCrcStep (a b : Byte) (s : State) : Result := .next (s.setOut (crcOutputs (crcStep a b)))

end Sys2Proof.Machine
end

