-- ==== Sys2Proof/Machine/Extractor.lean ====
section
/-! DEFINITION. The field extractor (spec 42_field_extractor.md): the descriptor rows, one definition each, and
DISPATCH. A descriptor row that runs on its own is one piece of the DISPATCH of the held message (log 19). -/

namespace Sys2Proof.Machine

/-- EXT_U8 (R182). -/
def execExtU8 (offset dest : Byte) (s : State) : Result := s.extractAlone .u8 offset dest

/-- EXT_I8 (R183). -/
def execExtI8 (offset dest : Byte) (s : State) : Result := s.extractAlone .i8 offset dest

/-- EXT_U16 (R184). -/
def execExtU16 (offset dest : Byte) (s : State) : Result := s.extractAlone .u16 offset dest

/-- EXT_I16 (R185). -/
def execExtI16 (offset dest : Byte) (s : State) : Result := s.extractAlone .i16 offset dest

/-- EXT_U32 (R186). -/
def execExtU32 (offset dest : Byte) (s : State) : Result := s.extractAlone .u32 offset dest

/-- EXT_I32 (R187): the bit pattern; the kind only documents the signedness for the reader. -/
def execExtI32 (offset dest : Byte) (s : State) : Result := s.extractAlone .i32 offset dest

/-- EXT_F32 (R188): the bit pattern, unchanged. -/
def execExtF32 (offset dest : Byte) (s : State) : Result := s.extractAlone .f32 offset dest

/-- Kind 7 is reserved: a layout table with it is refused (R172 item 2). -/
def execReservedKind7 (_ : BitVec 28) (_ : State) : Result := .refused .badLayout

/-- Kinds 8 to 15 are reserved: a layout table with one is refused (R172 item 2). -/
def execReservedKind8to15 (_ : BitVec 31) (_ : State) : Result := .refused .badLayout

/-- The end of a DISPATCH (R180): the hold ends and `disp_done` is true. -/
def State.endDispatch (s : State) : State :=
  (s.setBlk { s.blk with held := false }).setOut s.out.finishDispatch

/-- DISPATCH (R180): enabled while a message is held; the object id alone selects the entry (R175, R190), an
unknown one is a no-op (R181). -/
def execDispatch (s : State) : Result :=
  s.whenHeld
    (match lookupLayout s.blk.mOid s.cfg.layouts with
    | none =>
      .next ((s.setOut Outputs.idle).addTrace (.unknownObject s.blk.mOid)).endDispatch
    | some descs =>
      Result.andThen (extractAll descs (s.setOut Outputs.idle)) fun t => .next t.endDispatch)

end Sys2Proof.Machine
end

