-- ==== Sys2Proof/Machine/MsgTypes.lean ====
section
/-! DEFINITION. The msg_type rows (spec 30_encoding.md R72, 41_frame_codec.md R131, R150 to R155). A msg_type word
is the byte the codec takes in GotSync: its one-step effect is R131's, the version check with the whole byte
stored in `m_type`. What distinguishes the types, the acknowledgement of OBJ_ACK, happens in the VALID step,
where `m_type` is read again (R136, `State.treatMessage`). DEDUCED: this reading of the rows (log 11; safe). -/

namespace Sys2Proof.Machine

/-- The codec takes `{VERSION, ty}` as the msg_type byte (R131). -/
def State.takeTypeByte (s : State) (ty : Nibble) : Result :=
  s.inCodecState .gotSync (.next (s.acceptType (typeByte s.cfg.version ty)))

/-- MSG_OBJ (R150). -/
def execMsgObj (s : State) : Result := s.takeTypeByte s.cfg.typeObj

/-- MSG_OBJ_REQ (R151). -/
def execMsgObjReq (s : State) : Result := s.takeTypeByte s.cfg.typeObjReq

/-- MSG_OBJ_ACK (R152). -/
def execMsgObjAck (s : State) : Result := s.takeTypeByte s.cfg.typeObjAck

/-- MSG_ACK (R153). -/
def execMsgAck (s : State) : Result := s.takeTypeByte s.cfg.typeAck

/-- MSG_NACK (R154). -/
def execMsgNack (s : State) : Result := s.takeTypeByte s.cfg.typeNack

/-- MSG_RESERVED_25 (R155). -/
def execMsgReserved25 (s : State) : Result := s.takeTypeByte 0x5

/-- MSG_RESERVED_26 (R155). -/
def execMsgReserved26 (s : State) : Result := s.takeTypeByte 0x6

/-- MSG_RESERVED_27 (R155). -/
def execMsgReserved27 (s : State) : Result := s.takeTypeByte 0x7

/-- MSG_RESERVED_28 (R155). -/
def execMsgReserved28 (s : State) : Result := s.takeTypeByte 0x8

/-- MSG_RESERVED_29 (R155). -/
def execMsgReserved29 (s : State) : Result := s.takeTypeByte 0x9

/-- MSG_RESERVED_2A (R155). -/
def execMsgReserved2A (s : State) : Result := s.takeTypeByte 0xA

/-- MSG_RESERVED_2B (R155). -/
def execMsgReserved2B (s : State) : Result := s.takeTypeByte 0xB

/-- MSG_RESERVED_2C (R155). -/
def execMsgReserved2C (s : State) : Result := s.takeTypeByte 0xC

/-- MSG_RESERVED_2D (R155). -/
def execMsgReserved2D (s : State) : Result := s.takeTypeByte 0xD

/-- MSG_RESERVED_2E (R155). -/
def execMsgReserved2E (s : State) : Result := s.takeTypeByte 0xE

/-- MSG_RESERVED_2F (R155). -/
def execMsgReserved2F (s : State) : Result := s.takeTypeByte 0xF

/-- MSG_VERSION_CHECK (R131, R127): the upper nibble is VERSION, the type nibble is not checked. -/
def execMsgVersionCheck (ty : Nibble) (s : State) : Result := s.takeTypeByte ty

end Sys2Proof.Machine
end

