-- ==== Sys2Proof/Machine/Dispatch.lean ====
section
/-! DEFINITION. One arm per row of spec/opcode_table.json: the meaning each instruction calls. -/

namespace Sys2Proof.Machine

def exec (i : Instr) (s : State) : Host.Outcome State Fault Refusal :=
  match i with
  | .rxNone => Sys2Proof.Machine.execRxNone s
  | .rxByte b => Sys2Proof.Machine.execRxByte b s
  | .rxError => Sys2Proof.Machine.execRxError s
  | .dispatch => Sys2Proof.Machine.execDispatch s
  | .reset => Sys2Proof.Machine.execReset s
  | .reservedAction101 x => Sys2Proof.Machine.execReservedAction101 x s
  | .reservedAction110 x => Sys2Proof.Machine.execReservedAction110 x s
  | .reservedAction111 x => Sys2Proof.Machine.execReservedAction111 x s
  | .crcStep a b => Sys2Proof.Machine.execCrcStep a b s
  | .extU8 o d => Sys2Proof.Machine.execExtU8 o d s
  | .extI8 o d => Sys2Proof.Machine.execExtI8 o d s
  | .extU16 o d => Sys2Proof.Machine.execExtU16 o d s
  | .extI16 o d => Sys2Proof.Machine.execExtI16 o d s
  | .extU32 o d => Sys2Proof.Machine.execExtU32 o d s
  | .extI32 o d => Sys2Proof.Machine.execExtI32 o d s
  | .extF32 o d => Sys2Proof.Machine.execExtF32 o d s
  | .reservedKind7 r => Sys2Proof.Machine.execReservedKind7 r s
  | .reservedKind8to15 r => Sys2Proof.Machine.execReservedKind8to15 r s
  | .msgObj => Sys2Proof.Machine.execMsgObj s
  | .msgObjReq => Sys2Proof.Machine.execMsgObjReq s
  | .msgObjAck => Sys2Proof.Machine.execMsgObjAck s
  | .msgAck => Sys2Proof.Machine.execMsgAck s
  | .msgNack => Sys2Proof.Machine.execMsgNack s
  | .msgReserved25 => Sys2Proof.Machine.execMsgReserved25 s
  | .msgReserved26 => Sys2Proof.Machine.execMsgReserved26 s
  | .msgReserved27 => Sys2Proof.Machine.execMsgReserved27 s
  | .msgReserved28 => Sys2Proof.Machine.execMsgReserved28 s
  | .msgReserved29 => Sys2Proof.Machine.execMsgReserved29 s
  | .msgReserved2A => Sys2Proof.Machine.execMsgReserved2A s
  | .msgReserved2B => Sys2Proof.Machine.execMsgReserved2B s
  | .msgReserved2C => Sys2Proof.Machine.execMsgReserved2C s
  | .msgReserved2D => Sys2Proof.Machine.execMsgReserved2D s
  | .msgReserved2E => Sys2Proof.Machine.execMsgReserved2E s
  | .msgReserved2F => Sys2Proof.Machine.execMsgReserved2F s
  | .msgVersionCheck ty => Sys2Proof.Machine.execMsgVersionCheck ty s
  | .rxIdleSync => Sys2Proof.Machine.execRxIdleSync s
  | .rxIdleOther b => Sys2Proof.Machine.execRxIdleOther b s
  | .rxGotSyncVersionOk ty => Sys2Proof.Machine.execRxGotSyncVersionOk ty s
  | .rxGotSyncBadVersion b => Sys2Proof.Machine.execRxGotSyncBadVersion b s
  | .rxReadingLength b => Sys2Proof.Machine.execRxReadingLength b s
  | .rxReadingObjectId b => Sys2Proof.Machine.execRxReadingObjectId b s
  | .rxReadingInstanceId b => Sys2Proof.Machine.execRxReadingInstanceId b s
  | .rxReadingData b => Sys2Proof.Machine.execRxReadingData b s
  | .rxAwaitCrc b => Sys2Proof.Machine.execRxAwaitCrc b s
  | .rxIllFormedState b => Sys2Proof.Machine.execRxIllFormedState b s

end Sys2Proof.Machine
end

