-- ==== Sys2Proof/Machine/Step.lean ====
section
/-! DEFINITION. One step: take the input, decode it, run it. -/

namespace Sys2Proof.Machine

/-- One step of the machine (spec 00_scope.md R6, R12). A run whose configuration is not well-formed has no
step (42_field_extractor.md R172, 70_reset_and_hazards.md R234; log 16). -/
def step (s : State) : Host.Outcome State Fault Refusal :=
  match configRefusal s.cfg with
  | some r => .refused r
  | none =>
    match decode s.cfg s.nextWord with
    | .error e => .refused (decodeRefusal e)
    | .ok i => Result.andThen (exec i s) fun t => .next t.consume

/-- `s` with a row's word, read in its table (`tableWord`), placed where `step` takes its next input: at the
head of the script, with no reset request, in the state in which the block reads words of that table (log 4).
A number that no table holds changes nothing. -/
def State.withFetchWord (s : State) (nbits w : Nat) : State :=
  match tableWord nbits w with
  | none => s
  | some c => { s.readyFor c with script := c :: s.script, resetReq := false }

end Sys2Proof.Machine
end

