-- ==== Sys2Proof/Machine/Observe.lean ====
section
/-! DEFINITION. What an outside reader sees (spec 10_state.md R32, R34, R40; 70_reset_and_hazards.md R240). No
action of the block reads through these. -/

namespace Sys2Proof.Machine

/-- The message registers (10_state.md R24 to R29). -/
inductive MsgReg where
  | sync | type | len | oid | iid | crc
deriving DecidableEq, Repr

/-- The number by which `Config.deadRead` tells the registers apart; payload cell `i` has number `6 + i`. -/
def msgRegNumber : MsgReg → Nat
  | .sync => 0 | .type => 1 | .len => 2 | .oid => 3 | .iid => 4 | .crc => 5

/-- A message register's value, zero-extended. -/
def msgRegValue (r : MsgReg) (x : Block) : Word :=
  match r with
  | .sync => x.mSync.zeroExtend 32
  | .type => x.mType.zeroExtend 32
  | .len => x.mLen.zeroExtend 32
  | .oid => x.mOid
  | .iid => x.mIid.zeroExtend 32
  | .crc => x.mCrc.zeroExtend 32

/-- A value cut to a register's width. -/
def msgRegFit (r : MsgReg) (v : Word) : Word :=
  match r with
  | .sync => (v.truncate 8).zeroExtend 32
  | .type => (v.truncate 8).zeroExtend 32
  | .len => (v.truncate 16).zeroExtend 32
  | .oid => v
  | .iid => (v.truncate 16).zeroExtend 32
  | .crc => (v.truncate 8).zeroExtend 32

/-- The `k`-th outside read of a message register in this state: its value while a message is held, an
arbitrary one otherwise (10_state.md R32, D27; log 14). -/
def readMsgReg (r : MsgReg) (k : Nat) (s : State) : Word :=
  if s.blk.held then msgRegValue r s.blk
  else msgRegFit r (Config.deadRead s.steps (msgRegNumber r) k)

/-- The `k`-th outside read of payload cell `i`: the frame's data byte while a message is held, an arbitrary
value otherwise and above the data count (10_state.md R32, 93_implementation_defined.md I9; log 14). -/
def readPayload (i k : Nat) (s : State) : Except Fault Byte :=
  if i < Config.payloadCap then
    if s.blk.held ∧ i < rxDataCount s.cfg s.blk.mLen then
      match storeRead i s.blk.data with
      | some b => .ok b
      | none => .error .unwrittenPayload
    else .ok ((Config.deadRead s.steps (6 + i) k).truncate 8)
  else .error .noSuchCell

/-- An outside read of telemetry slot `i` (10_state.md R40, 70_reset_and_hazards.md R233): at any step; an
unwritten cell faults. -/
def readSlot (i : Nat) (s : State) : Except Fault Word :=
  if i < s.cfg.nslots then
    match storeRead i s.blk.telem with
    | some v => .ok v
    | none => .error .unwrittenSlot
  else .error .noSuchCell

end Sys2Proof.Machine
end

