-- ==== Sys2Proof/Machine/Stimulus.lean ====
section
/-! DEFINITION. Stimulus scripts and their expansion into action words (spec 30_encoding.md R89), and the wire
frames they spell (R70, R79). -/

namespace Sys2Proof.Machine

/-- TYPE in a script (R89): a name or a hex nibble. -/
inductive TypeName where
  | obj | objReq | objAck | ack | nack
  | nibble (n : Nibble)
deriving DecidableEq, Repr

/-- The type nibble of a TYPE. -/
def typeNibble (cfg : Config) : TypeName → Nibble
  | .obj => cfg.typeObj
  | .objReq => cfg.typeObjReq
  | .objAck => cfg.typeObjAck
  | .ack => cfg.typeAck
  | .nack => cfg.typeNack
  | .nibble n => n

/-- The length field of a frame with `n` data bytes (R89): 10 + n, or 8 + n with `LEN_COUNTS_INSTANCE` false. -/
def payloadLength (cfg : Config) (n : Nat) : Half :=
  BitVec.ofNat 16 (if cfg.lenCountsInstance then 10 + n else 8 + n)

/-- The bytes before the crc of a frame with a length field, an instance id and data (R70). -/
def longFrameBytes (cfg : Config) (ty : Nibble) (len : Half) (oid : Word) (iid : Half) (data : List Byte) :
    List Byte :=
  [cfg.syncVal, typeByte cfg.version ty, byteOfHalf len 0, byteOfHalf len 1,
    byteOfWord oid 0, byteOfWord oid 1, byteOfWord oid 2, byteOfWord oid 3,
    byteOfHalf iid 0, byteOfHalf iid 1] ++ data

/-- The bytes before the crc of the frame that a script's `frame` line with an instance id and data spells, its
length field following from the data (R70, R89). -/
def payloadBytes (cfg : Config) (ty : Nibble) (oid : Word) (iid : Half) (data : List Byte) : List Byte :=
  longFrameBytes cfg ty (payloadLength cfg data.length) oid iid data

/-- A frame body with its crc byte (R77), or with that byte exclusive-or 0x01 (`badcrc`, R89). -/
def withCrc (body : List Byte) (bad : Bool) : List Byte :=
  body ++ [if bad then crcFold 0 body ^^^ 1 else crcFold 0 body]

/-- One line of a stimulus script. -/
inductive Stimulus where
  | rx (bytes : List Byte)
  | none
  | err
  | dispatch
  | reset
  /-- `frame TYPE OID`, and `badcrc` after it. -/
  | headerFrame (ty : TypeName) (oid : Word) (bad : Bool)
  /-- `frame TYPE OID IID D0 … Dn-1`, and `badcrc` after it. -/
  | payloadFrame (ty : TypeName) (oid : Word) (iid : Half) (data : List Byte) (bad : Bool)
deriving DecidableEq, Repr

/-- The action words of a line (R80, R89). -/
def stimulusWords (cfg : Config) : Stimulus → List CodeWord
  | .rx bytes => bytes.map (actionWord 1)
  | .none => [actionWord 0 0]
  | .err => [actionWord 2 0]
  | .dispatch => [actionWord 3 0]
  | .reset => [actionWord 4 0]
  | .headerFrame ty oid bad =>
    (withCrc (headerBytes cfg (typeNibble cfg ty) oid) bad).map (actionWord 1)
  | .payloadFrame ty oid iid data bad =>
    (withCrc (payloadBytes cfg (typeNibble cfg ty) oid iid data) bad).map (actionWord 1)

/-- A whole script. -/
def scriptWords (cfg : Config) (lines : List Stimulus) : List CodeWord := lines.flatMap (stimulusWords cfg)

end Sys2Proof.Machine
end

