-- ==== Sys2Proof/Safety.lean ====
section
/-! DEFINITION. What a well-formed state of the block is, in the terms the statements use: the canonical form of
the stores, the frame in progress, the guarantees of a held message (spec 41_frame_codec.md R138), the bytes
the CRC accumulator covers (R124), and the CRC table as the spec lists it. -/

namespace Sys2Proof.Machine

/-- The stores are in canonical form and list only cells that exist (20_memory.md R60). -/
def StoresCanonical (s : State) : Prop :=
  storeWf s.blk.data = true ∧ storeBelow Config.payloadCap s.blk.data = true ∧
    storeWf s.blk.telem = true ∧ storeBelow s.cfg.nslots s.blk.telem = true

/-- Cells 0 to n-1 are written. -/
def Written (m : List Host.Cell) (n : Nat) : Prop := ∀ i, i < n → (storeRead i m).isSome = true

/-- The sync byte and the version tag have been checked (41_frame_codec.md R130, R131). -/
def HeaderChecked (cfg : Config) (x : Block) : Prop :=
  x.mSync = cfg.syncVal ∧ versionOk cfg x.mType = true

/-- What each codec state says of the registers (10_state.md R23; 41_frame_codec.md R130 to R135). -/
def FrameInProgress (cfg : Config) (x : Block) : Prop :=
  match x.st with
  | .idle => True
  | .gotSync =>
    x.mSync = cfg.syncVal ∧ x.mType = 0 ∧ x.mLen = 0 ∧ x.mOid = 0 ∧ x.mIid = 0 ∧ x.cnt = 0
  | .readingLength =>
    HeaderChecked cfg x ∧ x.mOid = 0 ∧ x.mIid = 0 ∧
      (x.cnt = 0 ∧ x.mLen = 0 ∨ x.cnt = 1 ∧ x.mLen.toNat < 256)
  | .readingObjectId =>
    HeaderChecked cfg x ∧ lenOk x.mLen = true ∧ x.mIid = 0 ∧ x.cnt.toNat < 4 ∧
      x.mOid.toNat < 2 ^ (8 * x.cnt.toNat)
  | .readingInstanceId =>
    HeaderChecked cfg x ∧ lenOk x.mLen = true ∧ x.mLen.toNat ≠ Config.hdrLen ∧ x.cnt.toNat < 2 ∧
      x.mIid.toNat < 2 ^ (8 * x.cnt.toNat)
  | .readingData =>
    HeaderChecked cfg x ∧ lenOk x.mLen = true ∧ x.mLen.toNat ≠ Config.hdrLen ∧
      x.cnt.toNat < dataCount cfg x.mLen ∧ Written x.data x.cnt.toNat
  | .awaitCrc =>
    HeaderChecked cfg x ∧ lenOk x.mLen = true ∧ x.cnt = 0 ∧
      (x.mLen.toNat = Config.hdrLen → x.mIid = 0) ∧ Written x.data (rxDataCount cfg x.mLen)
  | .illFormed => False

/-- The guarantees of a held message (41_frame_codec.md R138), but for the value of its CRC byte, which is
`CrcFolded`'s. -/
def HeldMessage (cfg : Config) (x : Block) : Prop :=
  x.st = .idle ∧ HeaderChecked cfg x ∧ lenOk x.mLen = true ∧
    (x.mLen.toNat = Config.hdrLen → x.mIid = 0) ∧
    Written x.data (rxDataCount cfg x.mLen) ∧ x.mCrc = x.acc

/-- A well-formed state: the configuration in force is well-formed, the stores are canonical, and the codec
registers are those of the frame in progress or of the held message. -/
def Sound (s : State) : Prop :=
  configRefusal s.cfg = none ∧ StoresCanonical s ∧ FrameInProgress s.cfg s.blk ∧
    (s.blk.held = true → HeldMessage s.cfg s.blk)

/-! ### The bytes under the CRC (41_frame_codec.md R124) -/

/-- The first `n` data bytes. -/
def dataBytes (m : List Host.Cell) (n : Nat) : List Byte :=
  (List.range n).map fun i => (storeRead i m).getD 0

/-- The length field's bytes, the object id's and the instance id's (30_encoding.md R70). -/
def lenBytes (x : Block) : List Byte := [byteOfHalf x.mLen 0, byteOfHalf x.mLen 1]
def oidBytes (x : Block) : List Byte :=
  [byteOfWord x.mOid 0, byteOfWord x.mOid 1, byteOfWord x.mOid 2, byteOfWord x.mOid 3]
def iidBytes (x : Block) : List Byte := [byteOfHalf x.mIid 0, byteOfHalf x.mIid 1]

/-- The frame the message registers and the payload buffer spell, without its crc byte (R70). -/
def frameBody (cfg : Config) (x : Block) : List Byte :=
  [x.mSync, x.mType] ++ lenBytes x ++ oidBytes x ++
    (if x.mLen.toNat = Config.hdrLen then [] else iidBytes x ++ dataBytes x.data (dataCount cfg x.mLen))

/-- The bytes of the frame in progress that have been folded so far. -/
def coveredBytes (cfg : Config) (x : Block) : List Byte :=
  match x.st with
  | .idle => []
  | .gotSync => [x.mSync]
  | .readingLength => [x.mSync, x.mType] ++ (lenBytes x).take x.cnt.toNat
  | .readingObjectId => [x.mSync, x.mType] ++ lenBytes x ++ (oidBytes x).take x.cnt.toNat
  | .readingInstanceId =>
    [x.mSync, x.mType] ++ lenBytes x ++ oidBytes x ++ (iidBytes x).take x.cnt.toNat
  | .readingData =>
    [x.mSync, x.mType] ++ lenBytes x ++ oidBytes x ++ iidBytes x ++ dataBytes x.data x.cnt.toNat
  | .awaitCrc => frameBody cfg x
  | .illFormed => []

/-- The accumulator is the CRC of the bytes covered (R124), and the CRC byte of a held message is the CRC of
its frame (R138). -/
def CrcFolded (s : State) : Prop :=
  (s.blk.st ≠ .idle → s.blk.st ≠ .illFormed → s.blk.acc = crcFold 0 (coveredBytes s.cfg s.blk)) ∧
    (s.blk.held = true → s.blk.mCrc = crcFold 0 (frameBody s.cfg s.blk))

/-! ### The CRC table as data -/

/-- The 256 entries of the table as 40_crc8_engine.md R103 lists them, in index order, one row a line. -/
def crcTableEntries : List Byte :=
  [0x00, 0x07, 0x0E, 0x09, 0x1C, 0x1B, 0x12, 0x15, 0x38, 0x3F, 0x36, 0x31, 0x24, 0x23, 0x2A, 0x2D] ++
  [0x70, 0x77, 0x7E, 0x79, 0x6C, 0x6B, 0x62, 0x65, 0x48, 0x4F, 0x46, 0x41, 0x54, 0x53, 0x5A, 0x5D] ++
  [0xE0, 0xE7, 0xEE, 0xE9, 0xFC, 0xFB, 0xF2, 0xF5, 0xD8, 0xDF, 0xD6, 0xD1, 0xC4, 0xC3, 0xCA, 0xCD] ++
  [0x90, 0x97, 0x9E, 0x99, 0x8C, 0x8B, 0x82, 0x85, 0xA8, 0xAF, 0xA6, 0xA1, 0xB4, 0xB3, 0xBA, 0xBD] ++
  [0xC7, 0xC0, 0xC9, 0xCE, 0xDB, 0xDC, 0xD5, 0xD2, 0xFF, 0xF8, 0xF1, 0xF6, 0xE3, 0xE4, 0xED, 0xEA] ++
  [0xB7, 0xB0, 0xB9, 0xBE, 0xAB, 0xAC, 0xA5, 0xA2, 0x8F, 0x88, 0x81, 0x86, 0x93, 0x94, 0x9D, 0x9A] ++
  [0x27, 0x20, 0x29, 0x2E, 0x3B, 0x3C, 0x35, 0x32, 0x1F, 0x18, 0x11, 0x16, 0x03, 0x04, 0x0D, 0x0A] ++
  [0x57, 0x50, 0x59, 0x5E, 0x4B, 0x4C, 0x45, 0x42, 0x6F, 0x68, 0x61, 0x66, 0x73, 0x74, 0x7D, 0x7A] ++
  [0x89, 0x8E, 0x87, 0x80, 0x95, 0x92, 0x9B, 0x9C, 0xB1, 0xB6, 0xBF, 0xB8, 0xAD, 0xAA, 0xA3, 0xA4] ++
  [0xF9, 0xFE, 0xF7, 0xF0, 0xE5, 0xE2, 0xEB, 0xEC, 0xC1, 0xC6, 0xCF, 0xC8, 0xDD, 0xDA, 0xD3, 0xD4] ++
  [0x69, 0x6E, 0x67, 0x60, 0x75, 0x72, 0x7B, 0x7C, 0x51, 0x56, 0x5F, 0x58, 0x4D, 0x4A, 0x43, 0x44] ++
  [0x19, 0x1E, 0x17, 0x10, 0x05, 0x02, 0x0B, 0x0C, 0x21, 0x26, 0x2F, 0x28, 0x3D, 0x3A, 0x33, 0x34] ++
  [0x4E, 0x49, 0x40, 0x47, 0x52, 0x55, 0x5C, 0x5B, 0x76, 0x71, 0x78, 0x7F, 0x6A, 0x6D, 0x64, 0x63] ++
  [0x3E, 0x39, 0x30, 0x37, 0x22, 0x25, 0x2C, 0x2B, 0x06, 0x01, 0x08, 0x0F, 0x1A, 0x1D, 0x14, 0x13] ++
  [0xAE, 0xA9, 0xA0, 0xA7, 0xB2, 0xB5, 0xBC, 0xBB, 0x96, 0x91, 0x98, 0x9F, 0x8A, 0x8D, 0x84, 0x83] ++
  [0xDE, 0xD9, 0xD0, 0xD7, 0xC2, 0xC5, 0xCC, 0xCB, 0xE6, 0xE1, 0xE8, 0xEF, 0xFA, 0xFD, 0xF4, 0xF3]

/-! ### Rows -/

/-- The msg_type rows with a fixed type (30_encoding.md R72; 41_frame_codec.md R150 to R155). -/
def fixedMsgTypeRows : List Instr :=
  [.msgObj, .msgObjReq, .msgObjAck, .msgAck, .msgNack, .msgReserved25, .msgReserved26, .msgReserved27,
    .msgReserved28, .msgReserved29, .msgReserved2A, .msgReserved2B, .msgReserved2C, .msgReserved2D,
    .msgReserved2E, .msgReserved2F]

/-! ### Feeding bytes -/

/-- RX_BYTE for each byte in turn (41_frame_codec.md R125). -/
def feed : List Byte → State → Result
  | [], s => .next s
  | b :: bs, s => Result.andThen (exec (.rxByte b) s) (feed bs)

/-- Instructions run one after the other. -/
def runAll : List Instr → State → Result
  | [], s => .next s
  | i :: is, s => Result.andThen (exec i s) (runAll is)

/-- No step out of this state ends in a fault. -/
def StepSafe (s : State) : Prop := ∀ f, step s ≠ .fault f

end Sys2Proof.Machine
end

