-- ==== Sys2Proof/Certificates/Slice0/Obligations.lean ====
section
/-! DEFINITION. The statements for the provers. Every statement is about every configuration: `SYNC_VAL`,
`VERSION`, the type codes, `LEN_COUNTS_INSTANCE`, `LAYOUTS` and `NSLOTS` are whatever `s.cfg` holds. -/

open Sys2Proof Sys2Proof.Machine

/-! ### Encodings -/

/-- Decoding an encoded well-formed instruction gives it back: no bit of an encoding is dropped. That a word
carries its table, and which type nibbles the msg_type rows stand for under other type codes, are the model's
choices (logs 1, 11). -/
def Obligations.DecodeOfEncodeGivesTheInstruction : Prop :=
  ∀ (cfg : Config) (i : Instr), configRefusal cfg = none → i.wellFormed cfg = true →
    decode cfg (encode cfg i) = .ok i

/-- Encoding a decoded instruction gives its word back: each word has one meaning. A msg_type byte of another
version is left out: it is the codec's bad-version row, whose own word is a codec-step key. -/
def Obligations.EncodeOfDecodeGivesTheWord : Prop :=
  ∀ (cfg : Config) (w : CodeWord) (i : Instr), configRefusal cfg = none →
    (∀ b, w = .msgType b → b.extractLsb' 4 4 = cfg.version) →
    decode cfg w = .ok i → encode cfg i = w

/-- A few words spelled bit by bit from 30_encoding.md R80, R82, R86, R72 and R88. -/
def Obligations.SpelledWordsDecodeToTheirRows : Prop :=
  decode Config.default (.action 0b00100111100#11) = .ok (.rxByte 0x3C) ∧
  decode Config.default (.action 0b01100000000#11) = .ok .dispatch ∧
  decode Config.default (.crcPort 0b1011010000100000#16) = .ok (.crcStep 0xB4 0x20) ∧
  decode Config.default (.descriptor 0b00110000000000000000001000000011#32) = .ok (.extI16 2 3) ∧
  decode Config.default (.msgType 0b00100010#8) = .ok .msgObjAck ∧
  decode Config.default (.codecKey 0b11001101011#11) = .ok (.rxAwaitCrc 0x6B)

/-- 30_encoding.md R81: a reserved code, or a non-zero data byte under another code than 001, is refused by the
step that is offered it. -/
def Obligations.ReservedActionWordsAreRefused : Prop :=
  ∀ (s : State) (w : BitVec 11) (rest : List CodeWord),
    configRefusal s.cfg = none → s.resetReq = false → s.script = .action w :: rest →
    (5 ≤ (w.extractLsb' 8 3).toNat ∨
      ((w.extractLsb' 8 3).toNat ≠ 1 ∧ w.extractLsb' 0 8 ≠ 0)) →
    step s = .refused .reservedAction

/-- The rows to which the spec gives no effect stop by name: R81, 42_field_extractor.md R172, 41_frame_codec.md
R125. -/
def Obligations.ReservedRowsStopByName : Prop :=
  ∀ (s : State) (x : Byte) (r : BitVec 28) (r' : BitVec 31),
    exec (.reservedAction101 x) s = .refused .reservedAction ∧
    exec (.reservedAction110 x) s = .refused .reservedAction ∧
    exec (.reservedAction111 x) s = .refused .reservedAction ∧
    exec (.reservedKind7 r) s = .refused .badLayout ∧
    exec (.reservedKind8to15 r') s = .refused .badLayout ∧
    (s.blk.held = false → s.blk.st = .illFormed →
      exec (.rxByte x) s = .fault .illFormedState ∧
      exec (.rxIllFormedState x) s = .fault .illFormedState)

/-! ### The CRC engine -/

/-- 40_crc8_engine.md R102, R103: the table that the construction by POLY gives is the table the spec lists, entry
by entry. The construction is the spec's own general knowledge (log 7). -/
def Obligations.CrcTableIsTheSpecsTable : Prop :=
  crcTableEntries.length = 256 ∧ ∀ i : Byte, crcTableEntries[i.toNat]? = some (crcTable i)

/-- 40_crc8_engine.md R105, its five items. -/
def Obligations.CrcTableAndFoldProperties : Prop :=
  (crcTable 0 = 0 ∧ Function.Bijective crcTable) ∧
  (∀ x y, crcTable (x ^^^ y) = crcTable x ^^^ crcTable y) ∧
  (∀ s : List Byte, (∀ b ∈ s, b = 0) → crcFold 0 s = 0) ∧
  (∀ (a : Byte) (before after : List Byte) (x y : Byte), x ≠ y →
    crcFold a (before ++ x :: after) ≠ crcFold a (before ++ y :: after)) ∧
  (∀ s : List Byte, crcFold 0 (s ++ [crcFold 0 s]) = 0)

/-- 40_crc8_engine.md R101: the port answers for every operand and changes nothing else, and the corner cases
of the rule. That the evaluation takes a model step with the other outputs idle is the model's choice (log 9). -/
def Obligations.CrcPortAnswersAndChangesNothingElse : Prop :=
  ∀ (s : State) (a b : Byte),
    exec (.crcStep a b) s =
      .next { s with out := { Outputs.idle with crcOut := some (crcTable (a ^^^ b)) } } ∧
    crcStep a b = crcTable (a ^^^ b) ∧ crcStep a a = 0 ∧ crcStep 0 b = crcTable b ∧
    crcStep a b = crcStep (a ^^^ b) 0 ∧ crcStep a b = crcStep 0 (a ^^^ b) ∧ crcStep 0 0x3C = 0xB4

/-! ### Memory access -/

/-- 20_memory.md R52: `MemWrite(data, i, 1, v)` writes the cell and no other; an index of 255 or more writes
nothing, and the codec raises the fault. -/
def Obligations.MemWriteWritesOneCellInBounds : Prop :=
  ∀ (m : List Host.Cell) (i : Nat) (v : Byte),
    (i < 255 → ∃ m', memWrite m i v = some m' ∧ storeRead i m' = some v ∧
      ∀ j, j ≠ i → storeRead j m' = storeRead j m) ∧
    (255 ≤ i → memWrite m i v = none ∧
      ∀ s : State, s.blk.held = false → s.blk.st = .readingData → s.blk.cnt.toNat = i →
        exec (.rxByte v) s = .fault .payloadOverrun)

/-- 20_memory.md R53: `MemRead(data, i, n)` is little-endian for n of 1, 2 and 4, and faults where a cell is
unwritten, in any buffer (an empty one too). -/
def Obligations.MemReadIsLittleEndian : Prop :=
  ∀ m : List Host.Cell,
    (∀ (i : Nat) (b₀ b₁ b₂ b₃ : Byte), storeRead i m = some b₀ →
      (i + 1 ≤ 255 → memRead m i 1 = .ok (b₀.zeroExtend 32)) ∧
      (i + 2 ≤ 255 → storeRead (i + 1) m = some b₁ → memRead m i 2 = .ok ((b₁ ++ b₀).zeroExtend 32)) ∧
      (i + 4 ≤ 255 → storeRead (i + 1) m = some b₁ → storeRead (i + 2) m = some b₂ →
        storeRead (i + 3) m = some b₃ → memRead m i 4 = .ok (b₃ ++ b₂ ++ b₁ ++ b₀))) ∧
    (∀ j n, n = 1 ∨ n = 2 ∨ n = 4 → j + n ≤ 255 → (∃ k, j ≤ k ∧ k < j + n ∧ storeRead k m = none) →
      memRead m j n = .error .unwrittenPayload)

/-- 20_memory.md R56: reads of different widths see one byte array. -/
def Obligations.OverlappingReadsSeeOneByteArray : Prop :=
  ∀ (m : List Host.Cell) (k : Nat),
    (∀ v, memRead m k 4 = .ok v → memRead m k 2 = .ok ((v.truncate 16).zeroExtend 32)) ∧
    (∀ v, memRead m k 2 = .ok v → memRead m (k + 1) 1 = .ok ((v.extractLsb' 8 8).zeroExtend 32))

/-! ### A step -/

/-- A step runs the instruction its input decodes to: one step performs one action (00_scope.md R6), whose writes
take effect together at its end (R12). What the step adds around `exec` is the model's choice, in no rule of the
spec: the script's head is used up (log 1), the reset request line is cleared (log 3) and the step is counted for
the free value of outside reads (log 14). -/
def Obligations.StepRunsTheDecodedInstruction : Prop :=
  ∀ (s : State) (i : Instr), configRefusal s.cfg = none → decode s.cfg s.nextWord = .ok i →
    (∀ t, exec i s = .next t →
      step s = .next { t with script := t.script.tail, resetReq := false, steps := t.steps + 1 }) ∧
    (∀ f, exec i s = .fault f → step s = .fault f) ∧
    (∀ r, exec i s = .refused r → step s = .refused r)

/-- Where the input of a step comes from: a reset request wins and the other input of the step is lost
(60_exceptions.md R204); else the script's head; a silent transport is RX_NONE (the model's choice, log 2, from
41_frame_codec.md R141). -/
def Obligations.ResetRequestWinsAndTheOtherInputIsLost : Prop :=
  ∀ (s : State), configRefusal s.cfg = none →
    (s.resetReq = true → configRefusal s.hostCfg = none →
      ∃ t, step s = .next t ∧ t.blk = Block.reset ∧ t.trace = s.trace ++ [.reset] ∧
        t.script = s.script.tail ∧ t.resetReq = false) ∧
    (∀ w rest, s.resetReq = false → s.script = w :: rest → s.nextWord = w) ∧
    (s.resetReq = false → s.script = [] →
      step s = .next { s with out := Outputs.idle, steps := s.steps + 1 })

/-- The table of 60_exceptions.md R204: RX_BYTE and RX_ERROR only while no message is held, DISPATCH only while
one is, RX_NONE and RESET always. The codec's rows follow RX_BYTE, and the descriptor rows DISPATCH (the model's
choices, logs 10, 19). -/
def Obligations.ActionsAreEnabledByTheHold : Prop :=
  ∀ (s : State) (b : Byte) (key : BitVec 11),
    (s.blk.held = true →
      exec (.rxByte b) s = .refused .notEnabled ∧ exec .rxError s = .refused .notEnabled ∧
      exec (decodeCodecKey s.cfg key) s = .refused .notEnabled ∧
      exec (decodeMsgType s.cfg b) s = .refused .notEnabled) ∧
    (s.blk.held = false →
      exec .dispatch s = .refused .notEnabled ∧
      ∀ k o d, fieldFits s.cfg k o d = true → exec (extInstr k o d) s = .refused .notEnabled) ∧
    (∃ t, exec .rxNone s = .next t) ∧
    (configRefusal s.hostCfg = none → ∃ t, exec .reset s = .next t)

/-! ### RX_NONE, RX_ERROR, RESET -/

/-- 41_frame_codec.md R141. -/
def Obligations.RxNoneChangesNoState : Prop :=
  ∀ s : State, exec .rxNone s = .next { s with out := Outputs.idle }

/-- 41_frame_codec.md R140: an error aborts the frame in progress; in Idle it has no effect on state. -/
def Obligations.RxErrorAbortsTheFrame : Prop :=
  ∀ s : State, s.blk.held = false →
    (s.blk.st ≠ .idle → exec .rxError s =
      .next { s with
        blk := { s.blk with st := .idle }, out := Outputs.idle,
        trace := s.trace ++ [.transportAbort s.blk.st] }) ∧
    (s.blk.st = .idle → exec .rxError s =
      .next { s with out := Outputs.idle, trace := s.trace ++ [.transportAbort .idle] })

/-- 70_reset_and_hazards.md R230, and R234's sampling of the parameters. -/
def Obligations.ResetWritesEveryRegister : Prop :=
  ∀ s : State, configRefusal s.hostCfg = none → exec .reset s =
    .next { s with
      blk := { st := .idle, acc := 0, cnt := 0, mSync := 0, mType := 0, mLen := 0, mOid := 0, mIid := 0,
               mCrc := 0, data := [], held := false, txq := [], telem := [] },
      out := { verdict := .none, dispDone := false, dispChanged := false, dispShort := false, crcOut := none },
      trace := s.trace ++ [.reset], cfg := s.hostCfg }

/-- 00_scope.md R9, its conditions but for LAYOUTS: where the five type codes are pairwise distinct and there is a
slot, the parameters are good, and otherwise neither RESET nor a step exists. That 256 is the greatest slot count,
and that this refusal comes before the one for LAYOUTS, are the model's inferences (log 16). -/
def Obligations.BadParametersAreRefused : Prop :=
  ∀ cfg : Config,
    let good : Prop :=
      [cfg.typeObj, cfg.typeObjReq, cfg.typeObjAck, cfg.typeAck, cfg.typeNack].Pairwise (· ≠ ·) ∧
        1 ≤ cfg.nslots ∧ cfg.nslots ≤ 256
    (good → paramsOk cfg = true) ∧
    (¬ good → ∀ s : State,
      (s.hostCfg = cfg → exec .reset s = .refused .badConfiguration) ∧
      (s.cfg = cfg → step s = .refused .badConfiguration))

/-- 42_field_extractor.md R172: a layout table is accepted at RESET when its four conditions hold, and where one
fails neither RESET nor a step exists. The other conditions of 00_scope.md R9 are a premise; where they fail,
`BadParametersAreRefused` says what happens. -/
def Obligations.LayoutsAreAcceptedExactlyWhenWellFormed : Prop :=
  ∀ cfg : Config, paramsOk cfg = true →
    let wellFormed : Prop :=
      (∀ i j (hi : i < cfg.layouts.length) (hj : j < cfg.layouts.length), i ≠ j →
          cfg.layouts[i].oid ≠ cfg.layouts[j].oid) ∧
        ∀ e ∈ cfg.layouts, ∀ d ∈ e.descs,
          d.extractLsb' 16 12 = 0 ∧ (d.extractLsb' 0 8).toNat < cfg.nslots ∧
          ∃ k, (d.extractLsb' 28 4) = kindCode k ∧ (d.extractLsb' 8 8).toNat + fieldWidth k ≤ 255
    (wellFormed → ∀ s : State, s.hostCfg = cfg → ∃ t, exec .reset s = .next t) ∧
    (¬ wellFormed → ∀ s : State,
      (s.hostCfg = cfg → exec .reset s = .refused .badLayout) ∧
      (s.cfg = cfg → step s = .refused .badLayout))

/-! ### RX_BYTE, state by state -/

/-- 41_frame_codec.md R130. -/
def Obligations.RxByteInIdle : Prop :=
  ∀ (s : State) (b : Byte), s.blk.held = false → s.blk.st = .idle →
    (b = s.cfg.syncVal →
      let t : State := { s with
        blk := { s.blk with
          acc := crcStep 0 b, mSync := b, mType := 0, mLen := 0, mOid := 0, mIid := 0, cnt := 0,
          st := .gotSync },
        out := Outputs.idle }
      exec (.rxByte b) s = .next t) ∧
    (b ≠ s.cfg.syncVal →
      let t : State := { s with out := Outputs.idle, trace := s.trace ++ [.idleDiscard b] }
      exec (.rxByte b) s = .next t)

/-- 41_frame_codec.md R131. -/
def Obligations.RxByteInGotSync : Prop :=
  ∀ (s : State) (b : Byte), s.blk.held = false → s.blk.st = .gotSync →
    (b.extractLsb' 4 4 = s.cfg.version →
      let t : State := { s with
        blk := { s.blk with acc := crcStep s.blk.acc b, mType := b, cnt := 0, st := .readingLength },
        out := Outputs.idle }
      exec (.rxByte b) s = .next t) ∧
    (b.extractLsb' 4 4 ≠ s.cfg.version →
      let t : State := { s with
        blk := { s.blk with acc := crcStep s.blk.acc b, st := .idle },
        out := Outputs.idle, trace := s.trace ++ [.badVersion b] }
      exec (.rxByte b) s = .next t)

/-- 41_frame_codec.md R131, R150 to R155: in GotSync, every msg_type row is its byte taken as `m_type`. That a
msg_type row is this one step is the model's reading (log 11). -/
def Obligations.MsgTypeRowsTakeTheTypeByte : Prop :=
  ∀ s : State, s.blk.held = false → s.blk.st = .gotSync →
    (∀ p ∈ [(Instr.msgObj, s.cfg.typeObj), (.msgObjReq, s.cfg.typeObjReq), (.msgObjAck, s.cfg.typeObjAck),
        (.msgAck, s.cfg.typeAck), (.msgNack, s.cfg.typeNack), (.msgReserved25, 0x5), (.msgReserved26, 0x6),
        (.msgReserved27, 0x7), (.msgReserved28, 0x8), (.msgReserved29, 0x9), (.msgReserved2A, 0xA),
        (.msgReserved2B, 0xB), (.msgReserved2C, 0xC), (.msgReserved2D, 0xD), (.msgReserved2E, 0xE),
        (.msgReserved2F, 0xF)],
      let b : Byte := s.cfg.version ++ p.2
      exec p.1 s = .next { s with
        blk := { s.blk with acc := crcStep s.blk.acc b, mType := b, cnt := 0, st := .readingLength },
        out := Outputs.idle }) ∧
    (∀ ty : Nibble,
      let b : Byte := s.cfg.version ++ ty
      exec (.msgVersionCheck ty) s = .next { s with
        blk := { s.blk with acc := crcStep s.blk.acc b, mType := b, cnt := 0, st := .readingLength },
        out := Outputs.idle })

/-- 41_frame_codec.md R132. -/
def Obligations.RxByteInReadingLength : Prop :=
  ∀ (s : State) (b : Byte), s.blk.held = false → s.blk.st = .readingLength →
    let len : Half := s.blk.mLen ||| (b.zeroExtend 16 <<< 8)
    (s.blk.cnt = 0 →
      let t : State := { s with
        blk := { s.blk with acc := crcStep s.blk.acc b, mLen := b.zeroExtend 16, cnt := 1 },
        out := Outputs.idle }
      exec (.rxByte b) s = .next t) ∧
    (s.blk.cnt ≠ 0 → 8 ≤ len.toNat → len.toNat ≤ 263 →
      let t : State := { s with
        blk := { s.blk with acc := crcStep s.blk.acc b, mLen := len, cnt := 0, st := .readingObjectId },
        out := Outputs.idle }
      exec (.rxByte b) s = .next t) ∧
    (s.blk.cnt ≠ 0 → (len.toNat < 8 ∨ 263 < len.toNat) →
      let t : State := { s with
        blk := { s.blk with acc := crcStep s.blk.acc b, mLen := len, cnt := 0, st := .idle },
        out := Outputs.idle, trace := s.trace ++ [.badLength len] }
      exec (.rxByte b) s = .next t)

/-- 41_frame_codec.md R133: the `cnt` tested is the one after the increment. -/
def Obligations.RxByteInReadingObjectId : Prop :=
  ∀ (s : State) (b : Byte), s.blk.held = false → s.blk.st = .readingObjectId →
    let oid : Word := s.blk.mOid ||| (b.zeroExtend 32 <<< (8 * s.blk.cnt.toNat))
    (s.blk.cnt + 1 ≠ 4 →
      let t : State := { s with
        blk := { s.blk with acc := crcStep s.blk.acc b, mOid := oid, cnt := s.blk.cnt + 1 },
        out := Outputs.idle }
      exec (.rxByte b) s = .next t) ∧
    (s.blk.cnt + 1 = 4 →
      let t : State := { s with
        blk := { s.blk with
          acc := crcStep s.blk.acc b, mOid := oid, cnt := 0,
          st := if s.blk.mLen = 8 then .awaitCrc else .readingInstanceId },
        out := Outputs.idle }
      exec (.rxByte b) s = .next t)

/-- 41_frame_codec.md R134. -/
def Obligations.RxByteInReadingInstanceId : Prop :=
  ∀ (s : State) (b : Byte), s.blk.held = false → s.blk.st = .readingInstanceId →
    let iid : Half := s.blk.mIid ||| (b.zeroExtend 16 <<< (8 * s.blk.cnt.toNat))
    (s.blk.cnt + 1 ≠ 2 →
      let t : State := { s with
        blk := { s.blk with acc := crcStep s.blk.acc b, mIid := iid, cnt := s.blk.cnt + 1 },
        out := Outputs.idle }
      exec (.rxByte b) s = .next t) ∧
    (s.blk.cnt + 1 = 2 →
      let t : State := { s with
        blk := { s.blk with
          acc := crcStep s.blk.acc b, mIid := iid, cnt := 0,
          st := if dataCount s.cfg s.blk.mLen = 0 then .awaitCrc else .readingData },
        out := Outputs.idle }
      exec (.rxByte b) s = .next t)

/-- 41_frame_codec.md R135: the byte goes to cell `cnt` of `data`, and every other cell reads as before. -/
def Obligations.RxByteInReadingData : Prop :=
  ∀ (s : State) (b : Byte), s.blk.held = false → s.blk.st = .readingData → s.blk.cnt.toNat < 255 →
    ∃ m : List Host.Cell,
      (storeRead s.blk.cnt.toNat m = some b ∧
        ∀ j, j ≠ s.blk.cnt.toNat → storeRead j m = storeRead j s.blk.data) ∧
      (s.blk.cnt.toNat + 1 ≠ dataCount s.cfg s.blk.mLen →
        let t : State := { s with
          blk := { s.blk with acc := crcStep s.blk.acc b, data := m, cnt := s.blk.cnt + 1 },
          out := Outputs.idle }
        exec (.rxByte b) s = .next t) ∧
      (s.blk.cnt.toNat + 1 = dataCount s.cfg s.blk.mLen →
        let t : State := { s with
          blk := { s.blk with acc := crcStep s.blk.acc b, data := m, cnt := 0, st := .awaitCrc },
          out := Outputs.idle }
        exec (.rxByte b) s = .next t)

/-- 41_frame_codec.md R136 and R137: the verdict, the hold and the acknowledgement. -/
def Obligations.RxByteInAwaitCrc : Prop :=
  ∀ (s : State) (b : Byte), s.blk.held = false → s.blk.st = .awaitCrc →
    let h : List Byte := [s.cfg.syncVal, s.cfg.version ++ s.cfg.typeAck, 0x08, 0x00,
      s.blk.mOid.extractLsb' 0 8, s.blk.mOid.extractLsb' 8 8,
      s.blk.mOid.extractLsb' 16 8, s.blk.mOid.extractLsb' 24 8]
    (b = s.blk.acc → s.blk.mType.extractLsb' 0 4 ≠ s.cfg.typeObjAck →
      let t : State := { s with
        blk := { s.blk with mCrc := b, st := .idle, held := true },
        out := { Outputs.idle with verdict := .valid },
        trace := s.trace ++ [.frameValid s.blk.mOid s.blk.mType s.blk.mLen] }
      exec (.rxByte b) s = .next t) ∧
    (b = s.blk.acc → s.blk.mType.extractLsb' 0 4 = s.cfg.typeObjAck →
      let t : State := { s with
        blk := { s.blk with
          mCrc := b, st := .idle, held := true, txq := s.blk.txq ++ h ++ [crcFold 0 h] },
        out := { Outputs.idle with verdict := .valid },
        trace := s.trace ++ [.frameValid s.blk.mOid s.blk.mType s.blk.mLen, .ackSent s.blk.mOid] }
      exec (.rxByte b) s = .next t) ∧
    (b ≠ s.blk.acc →
      let t : State := { s with
        blk := { s.blk with mCrc := b, st := .idle },
        out := { Outputs.idle with verdict := .invalid },
        trace := s.trace ++ [.crcMismatch b s.blk.acc] }
      exec (.rxByte b) s = .next t)

/-- 30_encoding.md R79: the acknowledgement that the VALID step of an OBJ_ACK frame sends is exactly nine bytes, the
last of them the CRC of the first eight. -/
def Obligations.AcknowledgementFrameIsNineBytes : Prop :=
  ∀ s : State, s.blk.held = false → s.blk.st = .awaitCrc → s.blk.mType.extractLsb' 0 4 = s.cfg.typeObjAck →
    ∃ (t : State) (frame : List Byte),
      exec (.rxByte s.blk.acc) s = .next t ∧ t.blk.txq = s.blk.txq ++ frame ∧ frame.length = 9 ∧
      frame.take 8 = [s.cfg.syncVal, s.cfg.version ++ s.cfg.typeAck, 0x08, 0x00, s.blk.mOid.extractLsb' 0 8,
        s.blk.mOid.extractLsb' 8 8, s.blk.mOid.extractLsb' 16 8, s.blk.mOid.extractLsb' 24 8] ∧
      frame.drop 8 = [crcFold 0 (frame.take 8)]

/-! ### The codec-step table -/

/-- 30_encoding.md R88: each codec-step row, in its state and on its bytes, goes on, and does what RX_BYTE does there.
That a row runs as an instruction of its own is the model's choice (log 10). -/
def Obligations.CodecStepRowsGoOnAsRxByte : Prop :=
  ∀ (s : State) (b : Byte), s.blk.held = false →
    let goesOn (i : Instr) (b : Byte) : Prop := ∃ t, exec i s = .next t ∧ exec (.rxByte b) s = .next t
    (s.blk.st = .idle → goesOn .rxIdleSync s.cfg.syncVal ∧ (b ≠ s.cfg.syncVal → goesOn (.rxIdleOther b) b)) ∧
    (s.blk.st = .gotSync →
      (∀ ty : Nibble, goesOn (.rxGotSyncVersionOk ty) (s.cfg.version ++ ty)) ∧
      (b.extractLsb' 4 4 ≠ s.cfg.version → goesOn (.rxGotSyncBadVersion b) b)) ∧
    (s.blk.st = .readingLength → goesOn (.rxReadingLength b) b) ∧
    (s.blk.st = .readingObjectId → goesOn (.rxReadingObjectId b) b) ∧
    (s.blk.st = .readingInstanceId → goesOn (.rxReadingInstanceId b) b) ∧
    (s.blk.st = .readingData → s.blk.cnt.toNat < 255 → goesOn (.rxReadingData b) b) ∧
    (s.blk.st = .awaitCrc → goesOn (.rxAwaitCrc b) b)

/-- 30_encoding.md R88: RX_BYTE does what the row of its key does, in every state. -/
def Obligations.RxByteIsTheRowOfItsKey : Prop :=
  ∀ (s : State) (b : Byte), s.blk.held = false →
    exec (.rxByte b) s = exec (decodeCodecKey s.cfg (stateCode s.blk.st ++ b)) s

/-- A row that the state does not select is refused: the model's choice for a word that the hardware does not carry.
While no message is held: a codec-step row whose key names another state, or which names another byte (log 10), and
every msg_type row outside GotSync (log 11). While one is held, every msg_type row is not enabled (log 11). -/
def Obligations.RowsOfOtherStatesAreNotSelected : Prop :=
  ∀ s : State,
    (s.blk.held = false →
      (∀ key : BitVec 11, stateCode s.blk.st ≠ key.extractLsb' 8 3 →
        exec (decodeCodecKey s.cfg key) s = .refused .rowNotSelected) ∧
      (s.blk.st = .idle → exec (.rxIdleOther s.cfg.syncVal) s = .refused .rowNotSelected) ∧
      (s.blk.st = .gotSync → ∀ ty : Nibble,
        exec (.rxGotSyncBadVersion (s.cfg.version ++ ty)) s = .refused .rowNotSelected) ∧
      (s.blk.st ≠ .gotSync →
        (∀ i ∈ fixedMsgTypeRows, exec i s = .refused .rowNotSelected) ∧
        ∀ ty : Nibble, exec (.msgVersionCheck ty) s = .refused .rowNotSelected)) ∧
    (s.blk.held = true →
      (∀ i ∈ fixedMsgTypeRows, exec i s = .refused .notEnabled) ∧
      ∀ ty : Nibble, exec (.msgVersionCheck ty) s = .refused .notEnabled)

/-! ### The field extractor -/

/-- 42_field_extractor.md R182, R183: EXT_U8 and EXT_I8. That a descriptor row runs as a step of its own, and
collects `changed` over such steps, is the model's choice (log 19). -/
def Obligations.ByteFieldsAreExtracted : Prop :=
  ∀ (s : State) (o d b₀ : Byte), s.blk.held = true → o.toNat + 1 ≤ 255 → d.toNat < s.cfg.nslots →
    o.toNat + 1 ≤ rxDataCount s.cfg s.blk.mLen → storeRead o.toNat s.blk.data = some b₀ →
    ∀ p ∈ [(Instr.extU8 o d, b₀.zeroExtend 32), (.extI8 o d, b₀.signExtend 32)],
      ∃ t, exec p.1 s = .next t ∧
        t = { s with
          blk := { s.blk with telem := t.blk.telem },
          out := { Outputs.idle with
            dispShort := s.out.dispShort,
            dispChanged := s.out.dispChanged || decide (storeRead d.toNat s.blk.telem ≠ some p.2) } } ∧
        storeRead d.toNat t.blk.telem = some p.2 ∧
        ∀ j, j ≠ d.toNat → storeRead j t.blk.telem = storeRead j s.blk.telem

/-- 42_field_extractor.md R184, R185: EXT_U16 and EXT_I16, at any offset, odd or even (log 19 as above). -/
def Obligations.HalfFieldsAreExtracted : Prop :=
  ∀ (s : State) (o d b₀ b₁ : Byte), s.blk.held = true → o.toNat + 2 ≤ 255 → d.toNat < s.cfg.nslots →
    o.toNat + 2 ≤ rxDataCount s.cfg s.blk.mLen → storeRead o.toNat s.blk.data = some b₀ →
    storeRead (o.toNat + 1) s.blk.data = some b₁ →
    ∀ p ∈ [(Instr.extU16 o d, (b₁ ++ b₀).zeroExtend 32), (.extI16 o d, (b₁ ++ b₀).signExtend 32)],
      ∃ t, exec p.1 s = .next t ∧
        t = { s with
          blk := { s.blk with telem := t.blk.telem },
          out := { Outputs.idle with
            dispShort := s.out.dispShort,
            dispChanged := s.out.dispChanged || decide (storeRead d.toNat s.blk.telem ≠ some p.2) } } ∧
        storeRead d.toNat t.blk.telem = some p.2 ∧
        ∀ j, j ≠ d.toNat → storeRead j t.blk.telem = storeRead j s.blk.telem

/-- 42_field_extractor.md R186, R187, R188: EXT_U32, EXT_I32 and EXT_F32 copy the 32 bits (log 19 as above). -/
def Obligations.WordFieldsAreExtracted : Prop :=
  ∀ (s : State) (o d b₀ b₁ b₂ b₃ : Byte), s.blk.held = true → o.toNat + 4 ≤ 255 → d.toNat < s.cfg.nslots →
    o.toNat + 4 ≤ rxDataCount s.cfg s.blk.mLen → storeRead o.toNat s.blk.data = some b₀ →
    storeRead (o.toNat + 1) s.blk.data = some b₁ → storeRead (o.toNat + 2) s.blk.data = some b₂ →
    storeRead (o.toNat + 3) s.blk.data = some b₃ →
    let v : Word := b₃ ++ b₂ ++ b₁ ++ b₀
    ∀ i ∈ [Instr.extU32 o d, .extI32 o d, .extF32 o d],
      ∃ t, exec i s = .next t ∧
        t = { s with
          blk := { s.blk with telem := t.blk.telem },
          out := { Outputs.idle with
            dispShort := s.out.dispShort,
            dispChanged := s.out.dispChanged || decide (storeRead d.toNat s.blk.telem ≠ some v) } } ∧
        storeRead d.toNat t.blk.telem = some v ∧
        ∀ j, j ≠ d.toNat → storeRead j t.blk.telem = storeRead j s.blk.telem

/-- 42_field_extractor.md R178: a field that does not lie wholly in the received data is skipped (log 19 as
above). -/
def Obligations.ShortFieldsAreSkipped : Prop :=
  ∀ (s : State) (k : FieldKind) (o d : Byte), s.blk.held = true →
    o.toNat + fieldWidth k ≤ 255 → d.toNat < s.cfg.nslots →
    rxDataCount s.cfg s.blk.mLen < o.toNat + fieldWidth k →
    exec (extInstr k o d) s = .next { s with
      out := { Outputs.idle with dispChanged := s.out.dispChanged, dispShort := true },
      trace := s.trace ++ [.shortField (kindCode k ++ (0 : BitVec 12) ++ o ++ d)] }

/-- A descriptor row whose field ends past the payload buffer, or whose slot does not exist, is refused in every
state, as a layout table that holds it is (42_field_extractor.md R172): the model's choice for a row that runs on
its own (log 19). -/
def Obligations.UnfittingDescriptorRowsAreRefused : Prop :=
  ∀ (s : State) (k : FieldKind) (o d : Byte), 255 < o.toNat + fieldWidth k ∨ s.cfg.nslots ≤ d.toNat →
    exec (extInstr k o d) s = .refused .badLayout

/-- 42_field_extractor.md R181: DISPATCH of an unknown object is a no-op that ends the hold. -/
def Obligations.DispatchOfUnknownObjectIsNoOp : Prop :=
  ∀ s : State, s.blk.held = true → (∀ e ∈ s.cfg.layouts, e.oid ≠ s.blk.mOid) →
    exec .dispatch s = .next { s with
      blk := { s.blk with held := false },
      out := { Outputs.idle with dispDone := true },
      trace := s.trace ++ [.unknownObject s.blk.mOid] }

/-- 42_field_extractor.md R180, R189: DISPATCH of a known object is its descriptors' rows in list order, from
idle outputs, and then the end of the hold. -/
def Obligations.DispatchIsItsDescriptorsInOrder : Prop :=
  ∀ (s : State) (e : LayoutEntry) (is : List Instr), s.blk.held = true → configRefusal s.cfg = none →
    e ∈ s.cfg.layouts → e.oid = s.blk.mOid →
    List.Forall₂ (fun d i => decode s.cfg (.descriptor d) = .ok i) e.descs is →
    exec .dispatch s = Result.andThen (runAll is { s with out := Outputs.idle }) fun t =>
      .next { t with blk := { t.blk with held := false }, out := { t.out with dispDone := true } }

/-- 42_field_extractor.md R180: with a well-formed configuration and the data bytes of the frame written,
DISPATCH completes; it writes only the slots its entry names, and ends the hold. -/
def Obligations.DispatchCompletesAndWritesOnlyItsSlots : Prop :=
  ∀ s : State, s.blk.held = true → configRefusal s.cfg = none →
    Written s.blk.data (rxDataCount s.cfg s.blk.mLen) →
    ∃ t, exec .dispatch s = .next t ∧
      t = { s with
        blk := { s.blk with held := false, telem := t.blk.telem },
        out := { Outputs.idle with
          dispDone := true, dispChanged := t.out.dispChanged, dispShort := t.out.dispShort },
        trace := t.trace } ∧
      ∀ j, (∀ e ∈ s.cfg.layouts, e.oid = s.blk.mOid → ∀ d ∈ e.descs, (d.extractLsb' 0 8).toNat ≠ j) →
        storeRead j t.blk.telem = storeRead j s.blk.telem

/-- 42_field_extractor.md R179: a DISPATCH that reports no change leaves every slot as it was. -/
def Obligations.NoChangeReportedMeansNoSlotChanged : Prop :=
  ∀ s t : State, exec .dispatch s = .next t → t.out.dispChanged = false →
    ∀ j, storeRead j t.blk.telem = storeRead j s.blk.telem

/-- 42_field_extractor.md R174, R175, R190: the extractor reads neither `m_iid` nor `m_type`. -/
def Obligations.DispatchIgnoresInstanceAndType : Prop :=
  ∀ (s t : State) (iid : Half) (ty : Byte), exec .dispatch s = .next t →
    exec .dispatch { s with blk := { s.blk with mIid := iid, mType := ty } } =
      .next { t with blk := { t.blk with mIid := iid, mType := ty } }

/-! ### Whole-machine rules -/

/-- The state after reset is well-formed, and nothing is under the CRC yet (70_reset_and_hazards.md R231). It
rests on the model's choice of a configuration at reset (log 5). -/
def Obligations.ResetStateIsSound : Prop := Sound State.reset ∧ CrcFolded State.reset

/-- Every step keeps a state well-formed: the stores stay canonical and inside their bounds (20_memory.md R60,
R62), the codec registers stay those of a frame in progress (10_state.md R23), and a held message keeps the
guarantees of 41_frame_codec.md R138. -/
def Obligations.EveryStepKeepsSound : Prop :=
  ∀ s t : State, Sound s → step s = .next t → Sound t

/-- 60_exceptions.md R200, 20_memory.md R62: out of a well-formed state no step faults. -/
def Obligations.SoundStatesNeverFault : Prop := ∀ s : State, Sound s → StepSafe s

/-- 41_frame_codec.md R124, R138: the accumulator stays the CRC of the bytes covered so far, so the CRC byte of a
held message is the CRC of the frame its registers spell. -/
def Obligations.EveryStepKeepsCrcFolded : Prop :=
  ∀ s t : State, Sound s → CrcFolded s → step s = .next t → CrcFolded t

/-- 20_memory.md R62, 10_state.md R30: the payload buffer changes only at cell `cnt` in ReadingData, below 255, or
is emptied by RESET. -/
def Obligations.PayloadChangesOnlyAtCntInReadingData : Prop :=
  ∀ s t : State, step s = .next t → t.blk.data ≠ s.blk.data →
    (s.blk.st = .readingData ∧ s.blk.held = false ∧ s.blk.cnt.toNat < 255 ∧
      ∀ j, j ≠ s.blk.cnt.toNat → storeRead j t.blk.data = storeRead j s.blk.data) ∨
    (t.blk.data = [] ∧ t.trace = s.trace ++ [.reset])

/-- 42_field_extractor.md R192, 10_state.md R40: a slot changes only while a message is held, or by RESET. -/
def Obligations.SlotsChangeOnlyWhileHeld : Prop :=
  ∀ s t : State, step s = .next t → t.blk.telem ≠ s.blk.telem →
    s.blk.held = true ∨ (t.blk.telem = [] ∧ t.trace = s.trace ++ [.reset])

/-- 10_state.md R35: only the acknowledgement emitter writes `txq`, nine bytes at a time, in the VALID step of an
OBJ_ACK frame; RESET empties it. -/
def Obligations.TransmitQueueGrowsOnlyByAcknowledgements : Prop :=
  ∀ s t : State, step s = .next t →
    t.blk.txq = s.blk.txq ∨
    (t.blk.txq = s.blk.txq ++ ackFrame s.cfg s.blk.mOid ∧ t.out.verdict = .valid ∧
      s.blk.mType.extractLsb' 0 4 = s.cfg.typeObjAck) ∨
    (t.blk.txq = [] ∧ t.trace = s.trace ++ [.reset])

/-- 10_state.md R41, 60_exceptions.md R202: the trace only grows, by at most one code, but for FRAME_VALID then
ACK_SENT, and one SHORT_FIELD for each short descriptor of a DISPATCH. -/
def Obligations.TraceOnlyGrows : Prop :=
  ∀ s t : State, step s = .next t → ∃ l, t.trace = s.trace ++ l ∧
    (l.length ≤ 1 ∨
      l = [.frameValid s.blk.mOid s.blk.mType s.blk.mLen, .ackSent s.blk.mOid] ∨
      (s.blk.held = true ∧ ∀ c ∈ l, ∃ d, c = .shortField d))

/-- 10_state.md R33: a verdict is given only in the step that takes the trailing CRC byte, and it is VALID exactly
when that step begins a hold. -/
def Obligations.VerdictOnlyAtTheCrcByte : Prop :=
  ∀ s t : State, step s = .next t → t.out.verdict ≠ .none →
    s.blk.st = .awaitCrc ∧ s.blk.held = false ∧ t.blk.st = .idle ∧
      (t.out.verdict = .valid ↔ t.blk.held = true)

/-- 10_state.md R31: a hold begins with a VALID verdict, and ends with DISPATCH or RESET. -/
def Obligations.HoldBeginsWithValidEndsWithDispatchOrReset : Prop :=
  ∀ s t : State, step s = .next t →
    (s.blk.held = false → t.blk.held = true → t.out.verdict = .valid) ∧
    (s.blk.held = true → t.blk.held = false →
      t.out.dispDone = true ∨ t.trace = s.trace ++ [.reset])

/-- 70_reset_and_hazards.md R234: the parameters change only at RESET, to those the host presents, which are
well-formed. -/
def Obligations.ConfigurationChangesOnlyAtReset : Prop :=
  ∀ s t : State, step s = .next t →
    t.hostCfg = s.hostCfg ∧
    (t.cfg = s.cfg ∨
      (decode s.cfg s.nextWord = .ok .reset ∧ t.cfg = s.hostCfg ∧ configRefusal s.hostCfg = none))

/-- 10_state.md R24 to R30, R32, R34, R40: what an outside reader sees. While a message is held, the six message
registers read as they are, and so do the frame's data bytes; a payload read at or above the data count does not
depend on the buffer (93_implementation_defined.md I9). While no message is held, no such read depends on the
block's record at all. That what is left open is a free value is the model's form for it (log 14). -/
def Obligations.OutsideReads : Prop :=
  ∀ s : State, rxReady s = !s.blk.held ∧
    (s.blk.held = true → ∀ k : Nat,
      readMsgReg .sync k s = s.blk.mSync.zeroExtend 32 ∧ readMsgReg .type k s = s.blk.mType.zeroExtend 32 ∧
      readMsgReg .len k s = s.blk.mLen.zeroExtend 32 ∧ readMsgReg .oid k s = s.blk.mOid ∧
      readMsgReg .iid k s = s.blk.mIid.zeroExtend 32 ∧ readMsgReg .crc k s = s.blk.mCrc.zeroExtend 32) ∧
    (s.blk.held = true → ∀ (i k : Nat) (b : Byte), i < rxDataCount s.cfg s.blk.mLen → i < 255 →
      storeRead i s.blk.data = some b → readPayload i k s = .ok b) ∧
    (s.blk.held = true → ∀ (i k : Nat) (m : List Host.Cell), rxDataCount s.cfg s.blk.mLen ≤ i →
      readPayload i k { s with blk := { s.blk with data := m } } = readPayload i k s) ∧
    (s.blk.held = false → ∀ (x : Block) (r : MsgReg) (i k : Nat), x.held = false →
      readMsgReg r k { s with blk := x } = readMsgReg r k s ∧
      readPayload i k { s with blk := x } = readPayload i k s) ∧
    (∀ i, i < s.cfg.nslots → storeRead i s.blk.telem = none → readSlot i s = .error .unwrittenSlot) ∧
    (∀ i v, i < s.cfg.nslots → storeRead i s.blk.telem = some v → readSlot i s = .ok v)

/-! ### Whole frames -/

/-- 41_frame_codec.md R160: in Idle, bytes that are not the sync byte are discarded one by one and leave the block
as it was. -/
def Obligations.BytesBeforeSyncAreDiscarded : Prop :=
  ∀ (bytes : List Byte) (s : State), s.blk.held = false → s.blk.st = .idle →
    (∀ b ∈ bytes, b ≠ s.cfg.syncVal) → s.out = Outputs.idle →
    feed bytes s = .next { s with trace := s.trace ++ bytes.map Cause.idleDiscard }

/-- 41_frame_codec.md R139: a header-only frame of any type and object id, fed from Idle, is held with an empty
payload. -/
def Obligations.HeaderOnlyFrameIsReceived : Prop :=
  ∀ (s : State) (ty : Nibble) (oid : Word), s.blk.held = false → s.blk.st = .idle →
    ∃ t, feed (withCrc (headerBytes s.cfg ty oid) false) s = .next t ∧
      t.out.verdict = .valid ∧ t.blk.held = true ∧ t.blk.st = .idle ∧ t.blk.mOid = oid ∧ t.blk.mLen = 8 ∧
      t.blk.mIid = 0 ∧ t.blk.mType = s.cfg.version ++ ty ∧ rxDataCount t.cfg t.blk.mLen = 0 ∧
      t.blk.data = s.blk.data ∧ t.blk.telem = s.blk.telem ∧
      t.blk.txq = s.blk.txq ++ (if ty = s.cfg.typeObjAck then ackFrame s.cfg oid else [])

/-- 41_frame_codec.md R130 to R138, 30_encoding.md R70, R89: a frame with an instance id and data, fed from Idle,
is held with exactly that instance id and data, under both readings of the length field (R122). With
`LEN_COUNTS_INSTANCE` false a frame of length 8 has no instance id, so there it carries at least one data byte. With
it true, length 9 is `LengthNineFrameIsReceived`'s. -/
def Obligations.PayloadFrameIsReceived : Prop :=
  ∀ (s : State) (ty : Nibble) (oid : Word) (iid : Half) (data : List Byte),
    s.blk.held = false → s.blk.st = .idle →
    (s.cfg.lenCountsInstance = true → data.length ≤ 253) →
    (s.cfg.lenCountsInstance = false → 1 ≤ data.length ∧ data.length ≤ 255) →
    ∃ t, feed (withCrc (payloadBytes s.cfg ty oid iid data) false) s = .next t ∧
      t.out.verdict = .valid ∧ t.blk.held = true ∧ t.blk.st = .idle ∧
      t.blk.mType = s.cfg.version ++ ty ∧ t.blk.mOid = oid ∧ t.blk.mIid = iid ∧
      rxDataCount t.cfg t.blk.mLen = data.length ∧
      (∀ i (h : i < data.length), storeRead i t.blk.data = some data[i]) ∧
      (∀ i, data.length ≤ i → storeRead i t.blk.data = storeRead i s.blk.data) ∧
      t.blk.telem = s.blk.telem ∧
      t.blk.txq = s.blk.txq ++ (if ty = s.cfg.typeObjAck then ackFrame s.cfg oid else [])

/-- 41_frame_codec.md R162 for header-only frames: one byte changed that leaves the framing alone (the type
nibble, an object id byte or the CRC byte) gives INVALID, holds nothing, sends nothing and writes no slot. -/
def Obligations.CorruptedHeaderFrameIsInvalid : Prop :=
  ∀ (s : State) (ty ty' : Nibble) (oid oid' : Word) (crc' : Byte) (k : Nat),
    s.blk.held = false → s.blk.st = .idle → k < 9 →
    (∀ j, j < 9 →
      ((headerBytes s.cfg ty' oid' ++ [crc'])[j]? = (withCrc (headerBytes s.cfg ty oid) false)[j]? ↔ j ≠ k)) →
    ∃ t, feed (headerBytes s.cfg ty' oid' ++ [crc']) s = .next t ∧
      t.out.verdict = .invalid ∧ t.blk.held = false ∧ t.blk.st = .idle ∧
      t.blk.telem = s.blk.telem ∧ t.blk.txq = s.blk.txq ∧ t.blk.data = s.blk.data

/-- 41_frame_codec.md R122, R134: where the length counts the instance id, a frame of length 9 is taken with both
instance id bytes and no data, as R122 says, though the length names one of the two bytes only (log 8). Fed from Idle,
it is held with that instance id and an empty payload. -/
def Obligations.LengthNineFrameIsReceived : Prop :=
  ∀ (s : State) (ty : Nibble) (oid : Word) (iid : Half),
    s.blk.held = false → s.blk.st = .idle → s.cfg.lenCountsInstance = true →
    ∃ t, feed (withCrc (longFrameBytes s.cfg ty 9 oid iid []) false) s = .next t ∧
      t.out.verdict = .valid ∧ t.blk.held = true ∧ t.blk.st = .idle ∧
      t.blk.mType = s.cfg.version ++ ty ∧ t.blk.mLen = 9 ∧ t.blk.mOid = oid ∧ t.blk.mIid = iid ∧
      rxDataCount t.cfg t.blk.mLen = 0 ∧ t.blk.data = s.blk.data ∧ t.blk.telem = s.blk.telem ∧
      t.blk.txq = s.blk.txq ++ (if ty = s.cfg.typeObjAck then ackFrame s.cfg oid else [])

/-- 41_frame_codec.md R162 for the frames with an instance id, of every length above 8 and under both readings of the
length field: one byte changed that leaves the framing alone (the type nibble, an object id byte, an instance id byte,
a data byte or the CRC byte) gives INVALID, holds nothing, sends nothing and writes no slot. -/
def Obligations.CorruptedPayloadFrameIsInvalid : Prop :=
  ∀ (s : State) (ty ty' : Nibble) (len : Half) (oid oid' : Word) (iid iid' : Half) (data data' : List Byte)
    (crc' : Byte) (k : Nat),
    s.blk.held = false → s.blk.st = .idle → 8 < len.toNat → len.toNat ≤ 263 →
    data.length = (if s.cfg.lenCountsInstance then len.toNat - 10 else len.toNat - 8) →
    data'.length = data.length → k < 11 + data.length →
    (∀ j, j < 11 + data.length →
      ((longFrameBytes s.cfg ty' len oid' iid' data' ++ [crc'])[j]? =
        (withCrc (longFrameBytes s.cfg ty len oid iid data) false)[j]? ↔ j ≠ k)) →
    ∃ t, feed (longFrameBytes s.cfg ty' len oid' iid' data' ++ [crc']) s = .next t ∧
      t.out.verdict = .invalid ∧ t.blk.held = false ∧ t.blk.st = .idle ∧
      t.blk.telem = s.blk.telem ∧ t.blk.txq = s.blk.txq ∧
      ∀ i, data.length ≤ i → storeRead i t.blk.data = storeRead i s.blk.data
end

