-- ==== Sys2Proof/Laws/Crc.lean ====
section
/-! SUPPORT. The fold of the CRC engine over lists. -/

namespace Sys2Proof.Machine

@[simp] theorem crcFold_nil (a : Byte) : crcFold a [] = a := rfl
@[simp] theorem crcFold_cons (a b : Byte) (s : List Byte) : crcFold a (b :: s) = crcFold (crcStep a b) s := rfl

theorem crcFold_append (a : Byte) (s s' : List Byte) : crcFold a (s ++ s') = crcFold (crcFold a s) s' := by
  induction s generalizing a with
  | nil => rfl
  | cons b s ih => exact ih _

theorem crcFold_concat (a : Byte) (s : List Byte) (b : Byte) :
    crcFold a (s ++ [b]) = crcStep (crcFold a s) b := crcFold_append a s [b]

end Sys2Proof.Machine
end

