-- ==== Sys2Proof/Laws/State.lean ====
section
/-! SUPPORT. For every update of the state, what each field is after it: true by rfl, so that no later proof
unfolds a record update. -/

namespace Sys2Proof.Machine

/-! ### setBlk -/

@[simp] theorem State.setBlk_blk (s : State) (x : Block) : (s.setBlk x).blk = x := rfl
@[simp] theorem State.setBlk_out (s : State) (x : Block) : (s.setBlk x).out = s.out := rfl
@[simp] theorem State.setBlk_trace (s : State) (x : Block) : (s.setBlk x).trace = s.trace := rfl
@[simp] theorem State.setBlk_cfg (s : State) (x : Block) : (s.setBlk x).cfg = s.cfg := rfl
@[simp] theorem State.setBlk_hostCfg (s : State) (x : Block) : (s.setBlk x).hostCfg = s.hostCfg := rfl
@[simp] theorem State.setBlk_script (s : State) (x : Block) : (s.setBlk x).script = s.script := rfl
@[simp] theorem State.setBlk_resetReq (s : State) (x : Block) : (s.setBlk x).resetReq = s.resetReq := rfl
@[simp] theorem State.setBlk_steps (s : State) (x : Block) : (s.setBlk x).steps = s.steps := rfl

/-! ### setOut -/

@[simp] theorem State.setOut_blk (s : State) (o : Outputs) : (s.setOut o).blk = s.blk := rfl
@[simp] theorem State.setOut_out (s : State) (o : Outputs) : (s.setOut o).out = o := rfl
@[simp] theorem State.setOut_trace (s : State) (o : Outputs) : (s.setOut o).trace = s.trace := rfl
@[simp] theorem State.setOut_cfg (s : State) (o : Outputs) : (s.setOut o).cfg = s.cfg := rfl
@[simp] theorem State.setOut_hostCfg (s : State) (o : Outputs) : (s.setOut o).hostCfg = s.hostCfg := rfl
@[simp] theorem State.setOut_script (s : State) (o : Outputs) : (s.setOut o).script = s.script := rfl
@[simp] theorem State.setOut_resetReq (s : State) (o : Outputs) : (s.setOut o).resetReq = s.resetReq := rfl
@[simp] theorem State.setOut_steps (s : State) (o : Outputs) : (s.setOut o).steps = s.steps := rfl

/-! ### addTrace -/

@[simp] theorem State.addTrace_blk (s : State) (c : Cause) : (s.addTrace c).blk = s.blk := rfl
@[simp] theorem State.addTrace_out (s : State) (c : Cause) : (s.addTrace c).out = s.out := rfl
@[simp] theorem State.addTrace_trace (s : State) (c : Cause) : (s.addTrace c).trace = s.trace ++ [c] := rfl
@[simp] theorem State.addTrace_cfg (s : State) (c : Cause) : (s.addTrace c).cfg = s.cfg := rfl
@[simp] theorem State.addTrace_hostCfg (s : State) (c : Cause) : (s.addTrace c).hostCfg = s.hostCfg := rfl
@[simp] theorem State.addTrace_script (s : State) (c : Cause) : (s.addTrace c).script = s.script := rfl
@[simp] theorem State.addTrace_resetReq (s : State) (c : Cause) : (s.addTrace c).resetReq = s.resetReq := rfl
@[simp] theorem State.addTrace_steps (s : State) (c : Cause) : (s.addTrace c).steps = s.steps := rfl

/-! ### emitVerdict -/

@[simp] theorem State.emitVerdict_blk (s : State) (v : Verdict) : (s.emitVerdict v).blk = s.blk := rfl
@[simp] theorem State.emitVerdict_out (s : State) (v : Verdict) : (s.emitVerdict v).out = verdictOutputs v := rfl
@[simp] theorem State.emitVerdict_trace (s : State) (v : Verdict) : (s.emitVerdict v).trace = s.trace := rfl
@[simp] theorem State.emitVerdict_cfg (s : State) (v : Verdict) : (s.emitVerdict v).cfg = s.cfg := rfl
@[simp] theorem State.emitVerdict_hostCfg (s : State) (v : Verdict) : (s.emitVerdict v).hostCfg = s.hostCfg := rfl
@[simp] theorem State.emitVerdict_script (s : State) (v : Verdict) : (s.emitVerdict v).script = s.script := rfl
@[simp] theorem State.emitVerdict_resetReq (s : State) (v : Verdict) : (s.emitVerdict v).resetReq = s.resetReq := rfl
@[simp] theorem State.emitVerdict_steps (s : State) (v : Verdict) : (s.emitVerdict v).steps = s.steps := rfl

/-! ### drop -/

@[simp] theorem State.drop_blk (s : State) (c : Cause) : (s.drop c).blk = { s.blk with st := .idle } := rfl
@[simp] theorem State.drop_out (s : State) (c : Cause) : (s.drop c).out = verdictOutputs .none := rfl
@[simp] theorem State.drop_trace (s : State) (c : Cause) : (s.drop c).trace = s.trace ++ [c] := rfl
@[simp] theorem State.drop_cfg (s : State) (c : Cause) : (s.drop c).cfg = s.cfg := rfl
@[simp] theorem State.drop_hostCfg (s : State) (c : Cause) : (s.drop c).hostCfg = s.hostCfg := rfl
@[simp] theorem State.drop_script (s : State) (c : Cause) : (s.drop c).script = s.script := rfl
@[simp] theorem State.drop_resetReq (s : State) (c : Cause) : (s.drop c).resetReq = s.resetReq := rfl
@[simp] theorem State.drop_steps (s : State) (c : Cause) : (s.drop c).steps = s.steps := rfl

/-! ### emitAck -/

@[simp] theorem State.emitAck_blk (s : State) : s.emitAck.blk = { s.blk with txq := s.blk.txq ++ ackFrame s.cfg s.blk.mOid } := rfl
@[simp] theorem State.emitAck_out (s : State) : s.emitAck.out = s.out := rfl
@[simp] theorem State.emitAck_trace (s : State) : s.emitAck.trace = s.trace ++ [.ackSent s.blk.mOid] := rfl
@[simp] theorem State.emitAck_cfg (s : State) : s.emitAck.cfg = s.cfg := rfl
@[simp] theorem State.emitAck_hostCfg (s : State) : s.emitAck.hostCfg = s.hostCfg := rfl
@[simp] theorem State.emitAck_script (s : State) : s.emitAck.script = s.script := rfl
@[simp] theorem State.emitAck_resetReq (s : State) : s.emitAck.resetReq = s.resetReq := rfl
@[simp] theorem State.emitAck_steps (s : State) : s.emitAck.steps = s.steps := rfl

/-! ### writeSlot -/

@[simp] theorem State.writeSlot_blk (s : State) (i : Nat) (v : Word) : (s.writeSlot i v).blk = { s.blk with telem := storeWrite i v s.blk.telem } := rfl
@[simp] theorem State.writeSlot_out (s : State) (i : Nat) (v : Word) : (s.writeSlot i v).out = s.out.noteWrite (isChange (storeRead i s.blk.telem) v) := rfl
@[simp] theorem State.writeSlot_trace (s : State) (i : Nat) (v : Word) : (s.writeSlot i v).trace = s.trace := rfl
@[simp] theorem State.writeSlot_cfg (s : State) (i : Nat) (v : Word) : (s.writeSlot i v).cfg = s.cfg := rfl
@[simp] theorem State.writeSlot_hostCfg (s : State) (i : Nat) (v : Word) : (s.writeSlot i v).hostCfg = s.hostCfg := rfl
@[simp] theorem State.writeSlot_script (s : State) (i : Nat) (v : Word) : (s.writeSlot i v).script = s.script := rfl
@[simp] theorem State.writeSlot_resetReq (s : State) (i : Nat) (v : Word) : (s.writeSlot i v).resetReq = s.resetReq := rfl
@[simp] theorem State.writeSlot_steps (s : State) (i : Nat) (v : Word) : (s.writeSlot i v).steps = s.steps := rfl

/-! ### skipShort -/

@[simp] theorem State.skipShort_blk (s : State) (d : Word) : (s.skipShort d).blk = s.blk := rfl
@[simp] theorem State.skipShort_out (s : State) (d : Word) : (s.skipShort d).out = s.out.noteShort := rfl
@[simp] theorem State.skipShort_trace (s : State) (d : Word) : (s.skipShort d).trace = s.trace ++ [.shortField d] := rfl
@[simp] theorem State.skipShort_cfg (s : State) (d : Word) : (s.skipShort d).cfg = s.cfg := rfl
@[simp] theorem State.skipShort_hostCfg (s : State) (d : Word) : (s.skipShort d).hostCfg = s.hostCfg := rfl
@[simp] theorem State.skipShort_script (s : State) (d : Word) : (s.skipShort d).script = s.script := rfl
@[simp] theorem State.skipShort_resetReq (s : State) (d : Word) : (s.skipShort d).resetReq = s.resetReq := rfl
@[simp] theorem State.skipShort_steps (s : State) (d : Word) : (s.skipShort d).steps = s.steps := rfl

/-! ### endDispatch -/

@[simp] theorem State.endDispatch_blk (s : State) : s.endDispatch.blk = { s.blk with held := false } := rfl
@[simp] theorem State.endDispatch_out (s : State) : s.endDispatch.out = s.out.finishDispatch := rfl
@[simp] theorem State.endDispatch_trace (s : State) : s.endDispatch.trace = s.trace := rfl
@[simp] theorem State.endDispatch_cfg (s : State) : s.endDispatch.cfg = s.cfg := rfl
@[simp] theorem State.endDispatch_hostCfg (s : State) : s.endDispatch.hostCfg = s.hostCfg := rfl
@[simp] theorem State.endDispatch_script (s : State) : s.endDispatch.script = s.script := rfl
@[simp] theorem State.endDispatch_resetReq (s : State) : s.endDispatch.resetReq = s.resetReq := rfl
@[simp] theorem State.endDispatch_steps (s : State) : s.endDispatch.steps = s.steps := rfl

/-! ### doReset -/

@[simp] theorem State.doReset_blk (s : State) : s.doReset.blk = Block.reset := rfl
@[simp] theorem State.doReset_out (s : State) : s.doReset.out = Outputs.idle := rfl
@[simp] theorem State.doReset_trace (s : State) : s.doReset.trace = s.trace ++ [.reset] := rfl
@[simp] theorem State.doReset_cfg (s : State) : s.doReset.cfg = s.hostCfg := rfl
@[simp] theorem State.doReset_hostCfg (s : State) : s.doReset.hostCfg = s.hostCfg := rfl
@[simp] theorem State.doReset_script (s : State) : s.doReset.script = s.script := rfl
@[simp] theorem State.doReset_resetReq (s : State) : s.doReset.resetReq = s.resetReq := rfl
@[simp] theorem State.doReset_steps (s : State) : s.doReset.steps = s.steps := rfl

/-! ### consume -/

@[simp] theorem State.consume_blk (s : State) : s.consume.blk = s.blk := rfl
@[simp] theorem State.consume_out (s : State) : s.consume.out = s.out := rfl
@[simp] theorem State.consume_trace (s : State) : s.consume.trace = s.trace := rfl
@[simp] theorem State.consume_cfg (s : State) : s.consume.cfg = s.cfg := rfl
@[simp] theorem State.consume_hostCfg (s : State) : s.consume.hostCfg = s.hostCfg := rfl
@[simp] theorem State.consume_script (s : State) : s.consume.script = s.script.tail := rfl
@[simp] theorem State.consume_resetReq (s : State) : s.consume.resetReq = false := rfl
@[simp] theorem State.consume_steps (s : State) : s.consume.steps = s.steps + 1 := rfl

/-! ### The outputs -/

@[simp] theorem verdictOutputs_verdict (v : Verdict) : (verdictOutputs v).verdict = v := rfl
@[simp] theorem verdictOutputs_dispDone (v : Verdict) : (verdictOutputs v).dispDone = false := rfl
@[simp] theorem verdictOutputs_dispChanged (v : Verdict) : (verdictOutputs v).dispChanged = false := rfl
@[simp] theorem verdictOutputs_dispShort (v : Verdict) : (verdictOutputs v).dispShort = false := rfl
@[simp] theorem verdictOutputs_crcOut (v : Verdict) : (verdictOutputs v).crcOut = none := rfl
theorem verdictOutputs_none : verdictOutputs .none = Outputs.idle := rfl

@[simp] theorem Outputs.noteWrite_verdict (o : Outputs) (c : Bool) : (o.noteWrite c).verdict = o.verdict := rfl
@[simp] theorem Outputs.noteWrite_dispDone (o : Outputs) (c : Bool) : (o.noteWrite c).dispDone = o.dispDone := rfl
@[simp] theorem Outputs.noteWrite_dispChanged (o : Outputs) (c : Bool) :
    (o.noteWrite c).dispChanged = (o.dispChanged || c) := rfl
@[simp] theorem Outputs.noteWrite_dispShort (o : Outputs) (c : Bool) :
    (o.noteWrite c).dispShort = o.dispShort := rfl
@[simp] theorem Outputs.noteShort_verdict (o : Outputs) : o.noteShort.verdict = o.verdict := rfl
@[simp] theorem Outputs.noteShort_dispDone (o : Outputs) : o.noteShort.dispDone = o.dispDone := rfl
@[simp] theorem Outputs.noteShort_dispChanged (o : Outputs) : o.noteShort.dispChanged = o.dispChanged := rfl
@[simp] theorem Outputs.noteShort_dispShort (o : Outputs) : o.noteShort.dispShort = true := rfl
@[simp] theorem Outputs.goOn_goOn (o : Outputs) : o.goOn.goOn = o.goOn := rfl
@[simp] theorem Outputs.goOn_idle : Outputs.idle.goOn = Outputs.idle := rfl
@[simp] theorem Outputs.goOn_noteWrite (o : Outputs) (c : Bool) :
    (o.noteWrite c).goOn = o.goOn.noteWrite c := rfl
@[simp] theorem Outputs.goOn_noteShort (o : Outputs) : o.noteShort.goOn = o.goOn.noteShort := rfl

end Sys2Proof.Machine
end

