-- ==== Sys2Proof/Laws/Store.lean ====
section
/-! SUPPORT. The laws of the stores: reading after writing, and that every write keeps the canonical form. -/

namespace Sys2Proof.Machine

variable {α : Type}

@[simp] theorem storeRead_nil (i : Nat) : storeRead i ([] : List (Nat × α)) = none := rfl

theorem storeRead_storeWrite (i j : Nat) (v : α) (m : List (Nat × α)) :
    storeRead j (storeWrite i v m) = if j = i then some v else storeRead j m := by
  induction m with
  | nil => simp [storeWrite, storeRead]
  | cons c m ih =>
    obtain ⟨k, w⟩ := c
    simp only [storeWrite]
    split_ifs with h₁ h₂ <;> simp only [storeRead, ih] <;> split_ifs <;> simp_all

@[simp] theorem storeRead_storeWrite_same (i : Nat) (v : α) (m : List (Nat × α)) :
    storeRead i (storeWrite i v m) = some v := by
  rw [storeRead_storeWrite, if_pos rfl]

theorem storeRead_storeWrite_other {i j : Nat} (h : j ≠ i) (v : α) (m : List (Nat × α)) :
    storeRead j (storeWrite i v m) = storeRead j m := by
  rw [storeRead_storeWrite, if_neg h]

/-- The canonical form, unfolded once: the tail is canonical and every later address is larger. -/
theorem storeWf_cons (c : Nat × α) (m : List (Nat × α)) :
    storeWf (c :: m) = true ↔ storeWf m = true ∧ ∀ d ∈ m, c.1 < d.1 := by
  induction m generalizing c with
  | nil => simp [storeWf]
  | cons e m ih =>
    obtain ⟨i, v⟩ := c
    obtain ⟨j, w⟩ := e
    rw [storeWf, Bool.and_eq_true, decide_eq_true_iff]
    constructor
    · rintro ⟨hij, h⟩
      refine ⟨h, fun d hd => ?_⟩
      rcases List.mem_cons.mp hd with rfl | hd
      · exact hij
      · exact hij.trans (((ih (j, w)).mp h).2 d hd)
    · rintro ⟨h, hall⟩
      exact ⟨hall (j, w) (by simp), h⟩

theorem mem_storeWrite {i : Nat} {v : α} {m : List (Nat × α)} {d : Nat × α}
    (h : d ∈ storeWrite i v m) : d = (i, v) ∨ d ∈ m := by
  induction m with
  | nil => simpa [storeWrite] using h
  | cons c m ih =>
    obtain ⟨k, w⟩ := c
    simp only [storeWrite] at h
    split_ifs at h
    · simpa using h
    · simp only [List.mem_cons] at h ⊢; tauto
    · rcases List.mem_cons.mp h with rfl | h
      · simp
      · rcases ih h with h | h <;> simp [h]

theorem storeWf_storeWrite {m : List (Nat × α)} (i : Nat) (v : α) (h : storeWf m = true) :
    storeWf (storeWrite i v m) = true := by
  induction m with
  | nil => rfl
  | cons c m ih =>
    obtain ⟨k, w⟩ := c
    have hc := (storeWf_cons _ _).mp h
    simp only [storeWrite]
    split_ifs with h₁ h₂
    · refine (storeWf_cons _ _).mpr ⟨h, fun d hd => ?_⟩
      rcases List.mem_cons.mp hd with rfl | hd
      · exact h₁
      · exact h₁.trans (hc.2 d hd)
    · subst h₂
      exact (storeWf_cons _ _).mpr hc
    · refine (storeWf_cons _ _).mpr ⟨ih hc.1, fun d hd => ?_⟩
      rcases mem_storeWrite hd with rfl | hd
      · simp only; omega
      · exact hc.2 d hd

theorem storeBelow_storeWrite {m : List (Nat × α)} {n i : Nat} (v : α) (hi : i < n)
    (h : storeBelow n m = true) : storeBelow n (storeWrite i v m) = true := by
  simp only [storeBelow, List.all_eq_true, decide_eq_true_iff] at h ⊢
  intro d hd
  rcases mem_storeWrite hd with rfl | hd
  · exact hi
  · exact h d hd

theorem storeRead_none_of_below {m : List (Nat × α)} {i : Nat} (h : ∀ d ∈ m, i < d.1) :
    storeRead i m = none := by
  induction m with
  | nil => rfl
  | cons c m ih =>
    obtain ⟨j, w⟩ := c
    have := h (j, w) (by simp)
    rw [storeRead, if_neg (by simp only at this; omega), ih fun d hd => h d (by simp [hd])]

/-- Equal reads make equal stores: the form is canonical. -/
theorem store_ext {m m' : List (Nat × α)} (h : storeWf m = true) (h' : storeWf m' = true)
    (e : ∀ i, storeRead i m = storeRead i m') : m = m' := by
  induction m generalizing m' with
  | nil =>
    cases m' with
    | nil => rfl
    | cons c m' =>
      obtain ⟨j, w⟩ := c
      simpa [storeRead] using e j
  | cons c m ih =>
    obtain ⟨i, v⟩ := c
    cases m' with
    | nil => simpa [storeRead] using e i
    | cons c' m' =>
      obtain ⟨j, w⟩ := c'
      have hc := (storeWf_cons _ _).mp h
      have hc' := (storeWf_cons _ _).mp h'
      simp only at hc hc'
      rcases lt_trichotomy i j with hij | hij | hij
      · have := e i
        rw [storeRead, if_pos rfl, storeRead, if_neg (by omega),
          storeRead_none_of_below fun d hd => hij.trans (hc'.2 d hd)] at this
        simp at this
      · subst hij
        have hv := e i
        simp only [storeRead, if_pos, Option.some.injEq] at hv
        subst hv
        have hm : m = m' := by
          refine ih hc.1 hc'.1 fun k => ?_
          have hk := e k
          simp only [storeRead] at hk
          split_ifs at hk with h₁
          · subst h₁
            rw [storeRead_none_of_below hc.2, storeRead_none_of_below hc'.2]
          · exact hk
        rw [hm]
      · have := e j
        rw [storeRead, if_neg (by omega), storeRead_none_of_below fun d hd => hij.trans (hc.2 d hd),
          storeRead, if_pos rfl] at this
        simp at this

/-- All that MemWrite can do (20_memory.md R52). -/
theorem memWrite_eq_some_iff {m m' : List Host.Cell} {i : Nat} {v : Byte} :
    memWrite m i v = some m' ↔ i < Config.payloadCap ∧ m' = storeWrite i v m := by
  simp only [memWrite]
  split_ifs with h <;> simp [h, eq_comm]

/-- MemWrite keeps the canonical form and stays inside the address map (20_memory.md R52, R60). -/
theorem memWrite_canonical {m m' : List Host.Cell} {i : Nat} {v : Byte} (h : memWrite m i v = some m')
    (hw : storeWf m = true) (hb : storeBelow Config.payloadCap m = true) :
    storeWf m' = true ∧ storeBelow Config.payloadCap m' = true := by
  obtain ⟨hi, rfl⟩ := memWrite_eq_some_iff.mp h
  exact ⟨storeWf_storeWrite i v hw, storeBelow_storeWrite v hi hb⟩

/-- The stores of the reset state are in canonical form. -/
theorem reset_storeWf : storeWf State.reset.blk.data = true ∧ storeWf State.reset.blk.telem = true := ⟨rfl, rfl⟩

/-- MemRead gives a value wherever its cells exist and are written (20_memory.md R53). -/
theorem readLE_isSome {m : List Host.Cell} {i n : Nat}
    (h : ∀ j, i ≤ j → j < i + n → (storeRead j m).isSome = true) : (readLE m i n).isSome = true := by
  induction n generalizing i with
  | zero => rfl
  | succ n ih =>
    obtain ⟨b, hb⟩ := Option.isSome_iff_exists.mp (h i le_rfl (by omega))
    obtain ⟨r, hr⟩ := Option.isSome_iff_exists.mp (ih (i := i + 1) fun j h₁ h₂ => h j (by omega) (by omega))
    simp [readLE, hb, hr]

/-- All that MemRead can do (20_memory.md R53). -/
theorem memRead_eq_ok_iff {m : List Host.Cell} {i n : Nat} {v : Word} :
    memRead m i n = .ok v ↔ i + n ≤ Config.payloadCap ∧ readLE m i n = some v := by
  simp only [memRead]
  split_ifs with h
  · cases readLE m i n <;> simp [h]
  · simp [h]

end Sys2Proof.Machine
end

