-- ==== Sys2Proof/Laws/Ops.lean ====
section
/-! SUPPORT. For each shared operation, once, everything it can do when it goes on. -/

namespace Sys2Proof.Machine

theorem andThen_eq_next_iff {r : Result} {f : State → Result} {t : State} :
    Result.andThen r f = .next t ↔ ∃ u, r = .next u ∧ f u = .next t := by
  cases r <;> simp [Result.andThen]

theorem andThen_eq_fault_iff {r : Result} {f : State → Result} {e : Fault} :
    Result.andThen r f = .fault e ↔ r = .fault e ∨ ∃ u, r = .next u ∧ f u = .fault e := by
  cases r <;> simp [Result.andThen]

theorem whenFree_eq_next_iff {s t : State} {r : Result} :
    s.whenFree r = .next t ↔ s.blk.held = false ∧ r = .next t := by
  cases h : s.blk.held <;> simp [State.whenFree, h]

theorem whenHeld_eq_next_iff {s t : State} {r : Result} :
    s.whenHeld r = .next t ↔ s.blk.held = true ∧ r = .next t := by
  cases h : s.blk.held <;> simp [State.whenHeld, h]

theorem inCodecState_eq_next_iff {s t : State} {k : CodecState} {r : Result} :
    s.inCodecState k r = .next t ↔ s.blk.held = false ∧ s.blk.st = k ∧ r = .next t := by
  rw [State.inCodecState, whenFree_eq_next_iff]
  by_cases h : s.blk.st = k <;> simp [h]

/-- R150 to R155: the side effect of a message type is the acknowledgement or nothing. -/
theorem treatMessage_cases (s : State) (k : MsgKind) :
    k = .objAck ∧ s.treatMessage k = s.emitAck ∨ k ≠ .objAck ∧ s.treatMessage k = s := by
  cases k <;> simp [State.treatMessage]

@[simp] theorem msgKind_eq_objAck_iff {cfg : Config} {ty : Nibble} :
    msgKind cfg ty = .objAck ↔ ty = cfg.typeObjAck := by
  simp only [msgKind]
  split_ifs <;> simp_all

/-- Everything the codec does with a length byte (R132). -/
theorem takeLength_cases (s : State) (b : Byte) :
    (s.blk.cnt = 0 ∧
      s.takeLength b = (s.setBlk { s.blk with
        acc := crcStep s.blk.acc b, mLen := b.zeroExtend 16, cnt := 1 }).emitVerdict .none) ∨
    (s.blk.cnt ≠ 0 ∧ lenOk (s.blk.mLen ||| placeHalf b 1) = true ∧
      s.takeLength b = (s.setBlk { s.blk with
        acc := crcStep s.blk.acc b, mLen := s.blk.mLen ||| placeHalf b 1, cnt := 0,
        st := .readingObjectId }).emitVerdict .none) ∨
    (s.blk.cnt ≠ 0 ∧ lenOk (s.blk.mLen ||| placeHalf b 1) = false ∧
      s.takeLength b = (s.setBlk { s.blk with
        acc := crcStep s.blk.acc b, mLen := s.blk.mLen ||| placeHalf b 1,
        cnt := 0 }).drop (.badLength (s.blk.mLen ||| placeHalf b 1))) := by
  by_cases h₁ : s.blk.cnt = 0
  · exact .inl ⟨h₁, if_pos h₁⟩
  · cases h₂ : lenOk (s.blk.mLen ||| placeHalf b 1)
    · exact .inr (.inr ⟨h₁, rfl, (if_neg h₁).trans (if_neg (by simp [Block.fold, h₂]))⟩)
    · exact .inr (.inl ⟨h₁, rfl, (if_neg h₁).trans (if_pos h₂)⟩)

/-- Everything the codec does with an object id byte (R133). -/
theorem takeObjectId_cases (s : State) (b : Byte) :
    (s.blk.cnt + 1 ≠ 4 ∧
      s.takeObjectId b = (s.setBlk { s.blk with
        acc := crcStep s.blk.acc b, mOid := s.blk.mOid ||| placeWord b s.blk.cnt.toNat,
        cnt := s.blk.cnt + 1 }).emitVerdict .none) ∨
    (s.blk.cnt + 1 = 4 ∧
      s.takeObjectId b = (s.setBlk { s.blk with
        acc := crcStep s.blk.acc b, mOid := s.blk.mOid ||| placeWord b s.blk.cnt.toNat, cnt := 0,
        st := if s.blk.mLen.toNat = Config.hdrLen then .awaitCrc else .readingInstanceId }).emitVerdict .none) := by
  by_cases h : s.blk.cnt + 1 = 4
  · refine .inr ⟨h, congrArg (fun x => (s.setBlk x).emitVerdict .none) (if_pos h)⟩
  · refine .inl ⟨h, congrArg (fun x => (s.setBlk x).emitVerdict .none) (if_neg h)⟩

/-- Everything the codec does with an instance id byte (R134). -/
theorem takeInstanceId_cases (s : State) (b : Byte) :
    (s.blk.cnt + 1 ≠ 2 ∧
      s.takeInstanceId b = (s.setBlk { s.blk with
        acc := crcStep s.blk.acc b, mIid := s.blk.mIid ||| placeHalf b s.blk.cnt.toNat,
        cnt := s.blk.cnt + 1 }).emitVerdict .none) ∨
    (s.blk.cnt + 1 = 2 ∧
      s.takeInstanceId b = (s.setBlk { s.blk with
        acc := crcStep s.blk.acc b, mIid := s.blk.mIid ||| placeHalf b s.blk.cnt.toNat, cnt := 0,
        st := if dataCount s.cfg s.blk.mLen = 0 then .awaitCrc else .readingData }).emitVerdict .none) := by
  by_cases h : s.blk.cnt + 1 = 2
  · refine .inr ⟨h, congrArg (fun x => (s.setBlk x).emitVerdict .none) (if_pos h)⟩
  · refine .inl ⟨h, congrArg (fun x => (s.setBlk x).emitVerdict .none) (if_neg h)⟩

/-- Everything the codec does with the trailing CRC byte (R136, R137). -/
theorem takeCrc_cases (s : State) (b : Byte) :
    (b = s.blk.acc ∧ loNibble s.blk.mType ≠ s.cfg.typeObjAck ∧
      s.takeCrc b = ((s.setBlk { s.blk with mCrc := b, st := .idle, held := true }).emitVerdict .valid).addTrace
        (.frameValid s.blk.mOid s.blk.mType s.blk.mLen)) ∨
    (b = s.blk.acc ∧ loNibble s.blk.mType = s.cfg.typeObjAck ∧
      s.takeCrc b = (((s.setBlk { s.blk with mCrc := b, st := .idle, held := true }).emitVerdict .valid).addTrace
        (.frameValid s.blk.mOid s.blk.mType s.blk.mLen)).emitAck) ∨
    (b ≠ s.blk.acc ∧ s.takeCrc b = s.rejectFrame b) := by
  by_cases h : b = s.blk.acc
  · rw [State.takeCrc, if_pos h, State.acceptFrame]
    rcases treatMessage_cases (((s.setBlk { s.blk with mCrc := b, st := .idle, held := true }).emitVerdict .valid).addTrace
      (.frameValid s.blk.mOid s.blk.mType s.blk.mLen)) (msgKind s.cfg (loNibble s.blk.mType)) with ⟨k, e⟩ | ⟨k, e⟩
    · exact .inr (.inl ⟨h, msgKind_eq_objAck_iff.mp k, e⟩)
    · exact .inl ⟨h, fun k' => k (msgKind_eq_objAck_iff.mpr k'), e⟩
  · exact .inr (.inr ⟨h, if_neg h⟩)

/-- Everything `takeData` can do when it goes on (R135). -/
theorem takeData_eq_next_iff {s t : State} {b : Byte} :
    s.takeData b = .next t ↔ s.blk.cnt.toNat < Config.payloadCap ∧
      t = (s.setBlk
        (if (s.blk.cnt + 1).toNat = dataCount s.cfg s.blk.mLen then
          { s.blk with acc := crcStep s.blk.acc b, data := storeWrite s.blk.cnt.toNat b s.blk.data,
                       cnt := 0, st := .awaitCrc }
        else
          { s.blk with acc := crcStep s.blk.acc b, data := storeWrite s.blk.cnt.toNat b s.blk.data,
                       cnt := s.blk.cnt + 1 })).emitVerdict .none := by
  simp only [State.takeData, Block.fold, memWrite]
  by_cases h : s.blk.cnt.toNat < Config.payloadCap
  · simp [h, eq_comm]
  · simp [h]

/-- A data byte is either taken or overruns the buffer (R135, 20_memory.md R52). -/
theorem takeData_eq_fault_iff {s : State} {b : Byte} {f : Fault} :
    s.takeData b = .fault f ↔ ¬ s.blk.cnt.toNat < Config.payloadCap ∧ f = .payloadOverrun := by
  simp only [State.takeData, Block.fold, memWrite]
  by_cases h : s.blk.cnt.toNat < Config.payloadCap
  · simp [h]
  · simp [h, eq_comm]

/-- Everything one field of a DISPATCH can do when it goes on (42_field_extractor.md R176 to R178). -/
theorem extractField_next_cases {s t : State} {k : FieldKind} {o d : Byte}
    (h : s.extractField k o d = .next t) :
    (o.toNat + fieldWidth k ≤ rxDataCount s.cfg s.blk.mLen ∧
      ∃ raw, memRead s.blk.data o.toNat (fieldWidth k) = .ok raw ∧
        t = s.writeSlot d.toNat (extendField k raw)) ∨
    (rxDataCount s.cfg s.blk.mLen < o.toNat + fieldWidth k ∧ t = s.skipShort (descWord k o d)) := by
  simp only [State.extractField] at h
  split at h
  · split at h
    · rename_i hle _ raw hr
      exact .inl ⟨hle, raw, hr, (Host.Outcome.next.inj h).symm⟩
    · cases h
  · exact .inr ⟨by omega, (Host.Outcome.next.inj h).symm⟩

/-- A descriptor word goes on only as a field that fits (R172). -/
theorem extractWord_next {s t : State} {d : Word} (h : s.extractWord d = .next t) :
    ∃ k o x, descFields d = some (k, o, x) ∧ fieldFits s.cfg k o x = true ∧ s.extractField k o x = .next t := by
  simp only [State.extractWord] at h
  split at h
  · rename_i k o x hd
    split at h
    · exact ⟨k, o, x, hd, ‹_›, h⟩
    · cases h
  · cases h

theorem extractAlone_next {s t : State} {k : FieldKind} {o d : Byte}
    (h : s.extractAlone k o d = .next t) :
    fieldFits s.cfg k o d = true ∧ s.blk.held = true ∧ (s.setOut s.out.goOn).extractField k o d = .next t := by
  simp only [State.extractAlone] at h
  split at h
  · obtain ⟨h₁, h₂⟩ := whenHeld_eq_next_iff.mp h
    exact ⟨‹_›, h₁, h₂⟩
  · cases h

/-- What a run of extractions leaves alone: everything but the slots, the outputs and the trace. -/
structure ExtractFrame (s t : State) : Prop where
  telem : t.blk = { s.blk with telem := t.blk.telem }
  cfg : t.cfg = s.cfg
  hostCfg : t.hostCfg = s.hostCfg
  script : t.script = s.script
  resetReq : t.resetReq = s.resetReq
  steps : t.steps = s.steps

theorem ExtractFrame.refl (s : State) : ExtractFrame s s := ⟨rfl, rfl, rfl, rfl, rfl, rfl⟩

theorem ExtractFrame.trans {s t u : State} (h : ExtractFrame s t) (h' : ExtractFrame t u) :
    ExtractFrame s u where
  telem := by rw [h'.telem, h.telem]
  cfg := h'.cfg.trans h.cfg
  hostCfg := h'.hostCfg.trans h.hostCfg
  script := h'.script.trans h.script
  resetReq := h'.resetReq.trans h.resetReq
  steps := h'.steps.trans h.steps

theorem extractField_frame {s t : State} {k : FieldKind} {o d : Byte}
    (h : s.extractField k o d = .next t) : ExtractFrame s t := by
  rcases extractField_next_cases h with ⟨-, raw, -, rfl⟩ | ⟨-, rfl⟩ <;>
    exact ⟨rfl, rfl, rfl, rfl, rfl, rfl⟩

/-- An invariant of one field that fits is an invariant of a whole layout entry. -/
theorem extractAll_induction {P : State → Prop} {ds : List Word} {s t : State}
    (step : ∀ u v k o d, P u → fieldFits u.cfg k o d = true → u.extractField k o d = .next v → P v)
    (hs : P s) (h : extractAll ds s = .next t) : P t := by
  induction ds generalizing s with
  | nil => exact Host.Outcome.next.inj h ▸ hs
  | cons d ds ih =>
    obtain ⟨u, hu, ht⟩ := andThen_eq_next_iff.mp h
    obtain ⟨k, o, x, -, hf, he⟩ := extractWord_next hu
    exact ih (step s u k o x hs hf he) ht

theorem extractAll_frame {ds : List Word} {s t : State} (h : extractAll ds s = .next t) :
    ExtractFrame s t :=
  extractAll_induction (P := ExtractFrame s) (fun _ _ _ _ _ hu _ he => hu.trans (extractField_frame he))
    (.refl s) h

end Sys2Proof.Machine
end

