-- ==== Sys2Proof/Laws/Exec.lean ====
section
/-! SUPPORT. Once, everything an instruction can do when it goes on: every row comes down to one of the five
actions, the CRC port or one field. -/

namespace Sys2Proof.Machine

/-- Everything RX_BYTE can do when it goes on (41_frame_codec.md R125), state by state. -/
theorem execRxByte_next_cases {b : Byte} {s t : State} (h : execRxByte b s = .next t) :
    s.blk.held = false ∧
      ((s.blk.st = .idle ∧ b = s.cfg.syncVal ∧ t = s.startFrame b) ∨
       (s.blk.st = .idle ∧ b ≠ s.cfg.syncVal ∧ t = s.discardByte b) ∨
       (s.blk.st = .gotSync ∧ versionOk s.cfg b = true ∧ t = s.acceptType b) ∨
       (s.blk.st = .gotSync ∧ versionOk s.cfg b = false ∧ t = s.rejectType b) ∨
       (s.blk.st = .readingLength ∧ t = s.takeLength b) ∨
       (s.blk.st = .readingObjectId ∧ t = s.takeObjectId b) ∨
       (s.blk.st = .readingInstanceId ∧ t = s.takeInstanceId b) ∨
       (s.blk.st = .readingData ∧ s.takeData b = .next t) ∨
       (s.blk.st = .awaitCrc ∧ b = s.blk.acc ∧ t = s.acceptFrame b) ∨
       (s.blk.st = .awaitCrc ∧ b ≠ s.blk.acc ∧ t = s.rejectFrame b)) := by
  obtain ⟨hh, h⟩ := whenFree_eq_next_iff.mp h
  refine ⟨hh, ?_⟩
  cases hst : s.blk.st <;> simp only [hst] at h
  · by_cases hb : b = s.cfg.syncVal <;> simp [hb] at h ⊢ <;> exact h.symm
  · by_cases hb : versionOk s.cfg b = true <;> simp [hb] at h ⊢ <;> exact h.symm
  · simp at h ⊢; exact h.symm
  · simp at h ⊢; exact h.symm
  · simp at h ⊢; exact h.symm
  · simpa using h
  · by_cases hb : b = s.blk.acc <;> simp [State.takeCrc, hb] at h ⊢ <;> exact h.symm
  · cases h

@[simp] theorem hiNibble_typeByte (v ty : Nibble) : hiNibble (typeByte v ty) = v := by
  revert v ty; decide

@[simp] theorem loNibble_typeByte (v ty : Nibble) : loNibble (typeByte v ty) = ty := by
  revert v ty; decide

/-- A byte is its two nibbles. -/
theorem typeByte_nibbles (b : Byte) : typeByte (hiNibble b) (loNibble b) = b := by
  revert b; decide

theorem versionOk_typeByte (cfg : Config) (ty : Nibble) : versionOk cfg (typeByte cfg.version ty) = true := by
  simp [versionOk]

theorem takeTypeByte_next {s t : State} {ty : Nibble} (h : s.takeTypeByte ty = .next t) :
    execRxByte (typeByte s.cfg.version ty) s = .next t := by
  obtain ⟨h₁, h₂, h₃⟩ := inCodecState_eq_next_iff.mp h
  simp [execRxByte, State.whenFree, h₁, h₂, versionOk_typeByte, ← h₃]

theorem inCodecState_next_rxByte {s t : State} {k : CodecState} {r : Result} {b : Byte}
    (h : s.inCodecState k r = .next t)
    (e : s.blk.held = false → s.blk.st = k → r = .next t → execRxByte b s = .next t) :
    ∃ b, execRxByte b s = .next t :=
  let ⟨h₁, h₂, h₃⟩ := inCodecState_eq_next_iff.mp h
  ⟨b, e h₁ h₂ h₃⟩

/-- Everything an instruction can do when it goes on. -/
theorem exec_next_cases {i : Instr} {s t : State} (h : exec i s = .next t) :
    t = s.emitVerdict .none ∨ (∃ y, t = s.setOut (crcOutputs y)) ∨
    (∃ b, execRxByte b s = .next t) ∨ execRxError s = .next t ∨ (i = .reset ∧ execReset s = .next t) ∨
    (i = .dispatch ∧ execDispatch s = .next t) ∨ ∃ k o d, s.extractAlone k o d = .next t := by
  have field {k o d} (h : s.extractAlone k o d = .next t) :
      ∃ k o d, s.extractAlone k o d = .next t := ⟨k, o, d, h⟩
  have ty {n} (h : s.takeTypeByte n = .next t) : ∃ b, execRxByte b s = .next t :=
    ⟨_, takeTypeByte_next h⟩
  cases i
  case rxNone => exact .inl (Host.Outcome.next.inj h).symm
  case crcStep a b => exact .inr (.inl ⟨_, (Host.Outcome.next.inj h).symm⟩)
  case rxByte b => exact .inr (.inr (.inl ⟨b, h⟩))
  case rxError => exact .inr (.inr (.inr (.inl h)))
  case reset => exact .inr (.inr (.inr (.inr (.inl ⟨rfl, h⟩))))
  case dispatch => exact .inr (.inr (.inr (.inr (.inr (.inl ⟨rfl, h⟩)))))
  case extU8 | extI8 | extU16 | extI16 | extU32 | extI32 | extF32 =>
    exact .inr (.inr (.inr (.inr (.inr (.inr (field h))))))
  case reservedAction101 | reservedAction110 | reservedAction111 | reservedKind7 | reservedKind8to15 =>
    cases h
  case rxIdleSync =>
    refine .inr (.inr (.inl (inCodecState_next_rxByte (b := s.cfg.syncVal) h fun h₁ h₂ h₃ => ?_)))
    simp [execRxByte, State.whenFree, h₁, h₂, ← h₃]
  case rxIdleOther b =>
    refine .inr (.inr (.inl (inCodecState_next_rxByte (b := b) h fun h₁ h₂ h₃ => ?_)))
    split at h₃
    · cases h₃
    · simp_all [execRxByte, State.whenFree]
  case rxGotSyncBadVersion b =>
    refine .inr (.inr (.inl (inCodecState_next_rxByte (b := b) h fun h₁ h₂ h₃ => ?_)))
    split at h₃
    · cases h₃
    · simp_all [execRxByte, State.whenFree]
  case rxIllFormedState b => exact absurd (inCodecState_eq_next_iff.mp h).2.2 (by simp)
  case rxReadingLength b | rxReadingObjectId b | rxReadingInstanceId b | rxReadingData b | rxAwaitCrc b =>
    refine .inr (.inr (.inl (inCodecState_next_rxByte (b := b) h fun h₁ h₂ h₃ => ?_)))
    simp [execRxByte, State.whenFree, h₁, h₂, ← h₃]
  all_goals exact .inr (.inr (.inl (ty h)))

/-- Everything DISPATCH can do when it goes on (42_field_extractor.md R180, R181). -/
theorem execDispatch_next_cases {s t : State} (h : execDispatch s = .next t) :
    s.blk.held = true ∧
      ((lookupLayout s.blk.mOid s.cfg.layouts = none ∧
        t = ((s.setOut Outputs.idle).addTrace (.unknownObject s.blk.mOid)).endDispatch) ∨
       ∃ descs u, lookupLayout s.blk.mOid s.cfg.layouts = some descs ∧
        extractAll descs (s.setOut Outputs.idle) = .next u ∧ t = u.endDispatch) := by
  obtain ⟨hh, h⟩ := whenHeld_eq_next_iff.mp h
  refine ⟨hh, ?_⟩
  split at h
  · exact .inl ⟨‹_›, (Host.Outcome.next.inj h).symm⟩
  · rename_i descs hl
    obtain ⟨u, hu, ht⟩ := andThen_eq_next_iff.mp h
    exact .inr ⟨descs, u, hl, hu, (Host.Outcome.next.inj ht).symm⟩

/-- Everything RESET can do when it goes on (70_reset_and_hazards.md R230). -/
theorem execReset_next_iff {s t : State} :
    execReset s = .next t ↔ configRefusal s.hostCfg = none ∧ t = s.doReset := by
  simp only [execReset]
  cases configRefusal s.hostCfg <;> simp [eq_comm]

/-- Everything RX_ERROR can do when it goes on (41_frame_codec.md R140). -/
theorem execRxError_next_iff {s t : State} :
    execRxError s = .next t ↔ s.blk.held = false ∧ t = s.drop (.transportAbort s.blk.st) := by
  rw [execRxError, whenFree_eq_next_iff, Host.Outcome.next.injEq]
  refine and_congr_right fun _ => ?_
  split_ifs with hi
  · have same : { s.blk with st := CodecState.idle } = s.blk := by rw [← hi]
    rw [State.drop, same]
    exact eq_comm
  · exact eq_comm

/-- Everything a step can do when it goes on. -/
theorem step_next_cases {s t : State} (h : step s = .next t) :
    configRefusal s.cfg = none ∧
      ∃ i u, decode s.cfg s.nextWord = .ok i ∧ exec i s = .next u ∧ t = u.consume := by
  simp only [step] at h
  split at h
  · cases h
  · refine ⟨‹_›, ?_⟩
    split at h
    · cases h
    · rename_i i hi
      obtain ⟨u, hu, ht⟩ := andThen_eq_next_iff.mp h
      exact ⟨i, u, hi, hu, (Host.Outcome.next.inj ht).symm⟩

end Sys2Proof.Machine
end

