-- ==== Sys2Proof/Laws/Fields.lean ====
section
/-! SUPPORT. Bit fields of concatenated words, and the fields of the encoded words. -/

namespace Sys2Proof.Machine

theorem extractLsb'_append_high {n m : Nat} (a : BitVec n) (b : BitVec m) :
    (a ++ b).extractLsb' m n = a := by
  apply BitVec.eq_of_getLsbD_eq
  intro i hi
  rw [BitVec.getLsbD_extractLsb', BitVec.getLsbD_append]
  simp [hi]

theorem extractLsb'_append_low {n m : Nat} (a : BitVec n) (b : BitVec m) :
    (a ++ b).extractLsb' 0 m = b := by
  apply BitVec.eq_of_getLsbD_eq
  intro i hi
  rw [BitVec.getLsbD_extractLsb', BitVec.getLsbD_append]
  simp [hi]

/-- A word is its upper part and its lower part. -/
theorem append_extractLsb' {n m : Nat} (w : BitVec (n + m)) :
    w.extractLsb' m n ++ w.extractLsb' 0 m = w := by
  apply BitVec.eq_of_getLsbD_eq
  intro i hi
  rw [BitVec.getLsbD_append]
  simp only [BitVec.getLsbD_extractLsb']
  split_ifs with h
  · simp [h]
  · have h₁ : i - m < n := by omega
    have h₂ : m + (i - m) = i := by omega
    simp [h₁, h₂]

/-- A field inside the upper part. -/
theorem extractLsb'_append_above {n m k w : Nat} (a : BitVec n) (b : BitVec m) (h : m ≤ k) :
    (a ++ b).extractLsb' k w = a.extractLsb' (k - m) w := by
  apply BitVec.eq_of_getLsbD_eq
  intro i hi
  simp only [BitVec.getLsbD_extractLsb', BitVec.getLsbD_append]
  have h₁ : ¬ k + i < m := by omega
  have h₂ : k + i - m = k - m + i := by omega
  simp [h₁, h₂]

/-- A field inside the lower part. -/
theorem extractLsb'_append_below {n m k w : Nat} (a : BitVec n) (b : BitVec m) (h : k + w ≤ m) :
    (a ++ b).extractLsb' k w = b.extractLsb' k w := by
  apply BitVec.eq_of_getLsbD_eq
  intro i hi
  simp only [BitVec.getLsbD_extractLsb', BitVec.getLsbD_append]
  have h₁ : k + i < m := by omega
  simp [h₁]

@[simp] theorem kindOfCode_kindCode (k : FieldKind) : kindOfCode (kindCode k) = some k := by
  cases k <;> rfl

theorem kindOfCode_eq_some_iff {c : Nibble} {k : FieldKind} : kindOfCode c = some k ↔ c = kindCode k := by
  revert c; cases k <;> decide

@[simp] theorem descOffset_descWord (k : FieldKind) (o d : Byte) : descOffset (descWord k o d) = o := by
  rw [descOffset, descWord, extractLsb'_append_above _ _ (by omega)]
  exact extractLsb'_append_low _ _

@[simp] theorem descDest_descWord (k : FieldKind) (o d : Byte) : descDest (descWord k o d) = d :=
  extractLsb'_append_low _ _

@[simp] theorem descKindCode_descWord (k : FieldKind) (o d : Byte) :
    descKindCode (descWord k o d) = kindCode k := by
  rw [descKindCode, descWord, extractLsb'_append_above _ _ (by omega),
    extractLsb'_append_above _ _ (by omega)]
  exact extractLsb'_append_high _ _

@[simp] theorem descReserved_descWord (k : FieldKind) (o d : Byte) : descReserved (descWord k o d) = 0 := by
  rw [descReserved, descWord, extractLsb'_append_above _ _ (by omega),
    extractLsb'_append_above _ _ (by omega)]
  exact extractLsb'_append_low _ _

/-- The fields of an encoded descriptor (30_encoding.md R82). -/
@[simp] theorem descFields_descWord (k : FieldKind) (o d : Byte) :
    descFields (descWord k o d) = some (k, o, d) := by
  simp [descFields]

/-- Everything a descriptor with named kind and zero reserved bits is (R82). -/
theorem descFields_eq_some_iff {w : Word} {k : FieldKind} {o d : Byte} :
    descFields w = some (k, o, d) ↔ w = descWord k o d := by
  constructor
  · intro h
    simp only [descFields] at h
    split_ifs at h with hr
    simp only [Option.map_eq_some_iff, Prod.mk.injEq] at h
    obtain ⟨k', hk, rfl, rfl, rfl⟩ := h
    rw [kindOfCode_eq_some_iff] at hk
    rw [descWord, ← hk, ← hr]
    have h₁ := append_extractLsb' (n := 24) (m := 8) w
    have h₂ := append_extractLsb' (n := 16) (m := 8) (w.extractLsb' 8 24)
    have h₃ := append_extractLsb' (n := 4) (m := 12) ((w.extractLsb' 8 24).extractLsb' 8 16)
    have e (a b c n : Nat) (h : b + c ≤ n) :
        (w.extractLsb' a n).extractLsb' b c = w.extractLsb' (a + b) c := by
      apply BitVec.eq_of_getLsbD_eq
      intro i hi
      have : b + i < n := by omega
      simp [hi, this, Nat.add_assoc]
    rw [← h₁]
    nth_rw 1 [← h₂]
    nth_rw 1 [← h₃]
    simp only [e, Nat.reduceAdd, Nat.reduceLeDiff, h₁, descKindCode, descReserved, descOffset, descDest]
  · rintro rfl
    simp

end Sys2Proof.Machine
end

