-- ==== Sys2Proof/Laws/Operands.lean ====
section
/-! SUPPORT. What the operand forms say: the length check, the data counts, the field check, the conditions on a
configuration and the layout lookup. -/

namespace Sys2Proof.Machine

/-- `LenOk` on natural numbers (41_frame_codec.md R128). -/
theorem lenOk_iff {len : Half} : lenOk len = true ↔ 8 ≤ len.toNat ∧ len.toNat ≤ 263 := by
  rw [lenOk, Bool.and_eq_true]
  exact and_congr decide_eq_true_iff decide_eq_true_iff

/-- A field fits when it ends inside the buffer and its slot exists (42_field_extractor.md R172). -/
theorem fieldFits_iff {cfg : Config} {k : FieldKind} {o d : Byte} :
    fieldFits cfg k o d = true ↔ o.toNat + fieldWidth k ≤ 255 ∧ d.toNat < cfg.nslots := by
  rw [fieldFits, Bool.and_eq_true]
  exact and_congr decide_eq_true_iff decide_eq_true_iff

/-- An accepted length has at most 255 data bytes (20_memory.md R62). -/
theorem dataCount_le (cfg : Config) {len : Half} (h : lenOk len = true) : dataCount cfg len ≤ 255 := by
  obtain ⟨h₁, h₂⟩ := lenOk_iff.mp h
  unfold dataCount
  split_ifs <;> omega

theorem rxDataCount_le (cfg : Config) {len : Half} (h : lenOk len = true) : rxDataCount cfg len ≤ 255 := by
  unfold rxDataCount
  split_ifs
  · omega
  · exact dataCount_le cfg h

theorem rxDataCount_of_ne {cfg : Config} {len : Half} (h : len.toNat ≠ Config.hdrLen) :
    rxDataCount cfg len = dataCount cfg len := if_neg h

/-- A configuration in force meets every condition of 00_scope.md R9. -/
theorem configRefusal_eq_none_iff {cfg : Config} :
    configRefusal cfg = none ↔ paramsOk cfg = true ∧ layoutsOk cfg = true := by
  unfold configRefusal
  split_ifs <;> simp_all

/-- The layout table's conditions, entry by entry (42_field_extractor.md R172). -/
theorem layoutsOk_iff {cfg : Config} :
    layoutsOk cfg = true ↔
      (cfg.layouts.map LayoutEntry.oid).Nodup ∧ ∀ e ∈ cfg.layouts, ∀ d ∈ e.descs, descOk cfg d = true := by
  simp only [layoutsOk, Bool.and_eq_true, decide_eq_true_iff, List.all_eq_true]

/-- A descriptor is allowed when it spells a field that fits (R172). -/
theorem descOk_iff {cfg : Config} {d : Word} :
    descOk cfg d = true ↔ ∃ k o x, d = descWord k o x ∧ fieldFits cfg k o x = true := by
  unfold descOk
  constructor
  · intro h
    split at h
    · rename_i k o x e
      exact ⟨k, o, x, descFields_eq_some_iff.mp e, h⟩
    · cases h
  · rintro ⟨k, o, x, rfl, h⟩
    simpa using h

/-- `lookup` finds nothing exactly when no entry has the object id (42_field_extractor.md R175). -/
theorem lookupLayout_eq_none_iff {oid : Word} {l : List LayoutEntry} :
    lookupLayout oid l = none ↔ ∀ e ∈ l, e.oid ≠ oid := by
  induction l with
  | nil => simp [lookupLayout]
  | cons e l ih =>
    by_cases h : e.oid = oid <;> simp [lookupLayout, h, ih]

/-- `lookup` finds the entry with the object id, which is unique in a well-formed table. -/
theorem lookupLayout_of_mem {e : LayoutEntry} {l : List LayoutEntry}
    (hn : (l.map LayoutEntry.oid).Nodup) (h : e ∈ l) : lookupLayout e.oid l = some e.descs := by
  induction l with
  | nil => cases h
  | cons x l ih =>
    rw [List.map_cons, List.nodup_cons] at hn
    rcases List.mem_cons.mp h with rfl | h
    · exact if_pos rfl
    · refine (if_neg fun hx => hn.1 ?_).trans (ih hn.2 h)
      exact hx ▸ List.mem_map_of_mem h

end Sys2Proof.Machine
end

