-- ==== Sys2Proof/Laws/PerInstr.lean ====
section
/-! SUPPORT. For every row of spec/opcode_table.json: the encoder's word of a well-formed instruction, under the
default parameters the table assumes, has the row's fixed bits (30_encoding.md R72, R80, R82, R86, R88). -/

namespace Sys2Proof.Laws

open Sys2Proof.Machine

/-- A word's bits, without its table. -/
def TableMatch.bits : CodeWord → BitVec 32
  | .action w => w.zeroExtend 32
  | .crcPort w => w.zeroExtend 32
  | .descriptor w => w
  | .msgType w => w.zeroExtend 32
  | .codecKey w => w.zeroExtend 32

/-- The mask and the match of an instruction's row. -/
def TableMatch.row : Instr → BitVec 32 × BitVec 32
  | .rxNone => (0x7ff, 0x0)
  | .rxByte _ => (0x700, 0x100)
  | .rxError => (0x7ff, 0x200)
  | .dispatch => (0x7ff, 0x300)
  | .reset => (0x7ff, 0x400)
  | .reservedAction101 _ => (0x700, 0x500)
  | .reservedAction110 _ => (0x700, 0x600)
  | .reservedAction111 _ => (0x700, 0x700)
  | .crcStep _ _ => (0x0, 0x0)
  | .extU8 _ _ => (0xffff0000, 0x0)
  | .extI8 _ _ => (0xffff0000, 0x10000000)
  | .extU16 _ _ => (0xffff0000, 0x20000000)
  | .extI16 _ _ => (0xffff0000, 0x30000000)
  | .extU32 _ _ => (0xffff0000, 0x40000000)
  | .extI32 _ _ => (0xffff0000, 0x50000000)
  | .extF32 _ _ => (0xffff0000, 0x60000000)
  | .reservedKind7 _ => (0xf0000000, 0x70000000)
  | .reservedKind8to15 _ => (0x80000000, 0x80000000)
  | .msgObj => (0xff, 0x20)
  | .msgObjReq => (0xff, 0x21)
  | .msgObjAck => (0xff, 0x22)
  | .msgAck => (0xff, 0x23)
  | .msgNack => (0xff, 0x24)
  | .msgReserved25 => (0xff, 0x25)
  | .msgReserved26 => (0xff, 0x26)
  | .msgReserved27 => (0xff, 0x27)
  | .msgReserved28 => (0xff, 0x28)
  | .msgReserved29 => (0xff, 0x29)
  | .msgReserved2A => (0xff, 0x2a)
  | .msgReserved2B => (0xff, 0x2b)
  | .msgReserved2C => (0xff, 0x2c)
  | .msgReserved2D => (0xff, 0x2d)
  | .msgReserved2E => (0xff, 0x2e)
  | .msgReserved2F => (0xff, 0x2f)
  | .msgVersionCheck _ => (0xf0, 0x20)
  | .rxIdleSync => (0x7ff, 0x3c)
  | .rxIdleOther _ => (0x700, 0x0)
  | .rxGotSyncVersionOk _ => (0x7f0, 0x120)
  | .rxGotSyncBadVersion _ => (0x700, 0x100)
  | .rxReadingLength _ => (0x700, 0x200)
  | .rxReadingObjectId _ => (0x700, 0x300)
  | .rxReadingInstanceId _ => (0x700, 0x400)
  | .rxReadingData _ => (0x700, 0x500)
  | .rxAwaitCrc _ => (0x700, 0x600)
  | .rxIllFormedState _ => (0x700, 0x700)

/-- The bits under the row's mask are the row's match. -/
def TableMatch.Statement (i : Instr) : Prop :=
  i.wellFormed Config.default = true →
    TableMatch.bits (encode Config.default i) &&& (TableMatch.row i).1 = (TableMatch.row i).2

/-- The upper half of a descriptor word. -/
theorem TableMatch.and_upper_half (x : BitVec 32) : x &&& 0xffff0000 = x.extractLsb' 16 16 ++ (0 : BitVec 16) := by
  apply BitVec.eq_of_getLsbD_eq
  intro i hi
  rw [BitVec.getLsbD_and, BitVec.getLsbD_append, BitVec.getLsbD_extractLsb']
  interval_cases i <;> simp

/-- A descriptor of a named kind has its kind in the top four bits and zeros below them. -/
theorem TableMatch.descWord_upper_half (k : FieldKind) (o d : Byte) :
    descWord k o d &&& 0xffff0000 = kindCode k ++ (0 : BitVec 28) := by
  have h : (descWord k o d).extractLsb' 16 16 = kindCode k ++ (0 : BitVec 12) := by
    rw [descWord, extractLsb'_append_above _ _ (by omega), extractLsb'_append_above _ _ (by omega)]
    simp
  rw [TableMatch.and_upper_half, h]
  cases k <;> rfl

theorem TableMatch.rxNone : TableMatch.Statement .rxNone := fun _ => rfl
theorem TableMatch.rxByte (b : Byte) : TableMatch.Statement (.rxByte b) := by
  revert b; unfold TableMatch.Statement; decide
theorem TableMatch.rxError : TableMatch.Statement .rxError := fun _ => rfl
theorem TableMatch.dispatch : TableMatch.Statement .dispatch := fun _ => rfl
theorem TableMatch.reset : TableMatch.Statement .reset := fun _ => rfl
theorem TableMatch.reservedAction101 (x : Byte) : TableMatch.Statement (.reservedAction101 x) := by
  revert x; unfold TableMatch.Statement; decide
theorem TableMatch.reservedAction110 (x : Byte) : TableMatch.Statement (.reservedAction110 x) := by
  revert x; unfold TableMatch.Statement; decide
theorem TableMatch.reservedAction111 (x : Byte) : TableMatch.Statement (.reservedAction111 x) := by
  revert x; unfold TableMatch.Statement; decide
theorem TableMatch.crcStep (a b : Byte) : TableMatch.Statement (.crcStep a b) := fun _ => BitVec.and_zero
theorem TableMatch.extU8 (offset dest : Byte) : TableMatch.Statement (.extU8 offset dest) := fun _ => (TableMatch.descWord_upper_half .u8 _ _).trans rfl
theorem TableMatch.extI8 (offset dest : Byte) : TableMatch.Statement (.extI8 offset dest) := fun _ => (TableMatch.descWord_upper_half .i8 _ _).trans rfl
theorem TableMatch.extU16 (offset dest : Byte) : TableMatch.Statement (.extU16 offset dest) := fun _ => (TableMatch.descWord_upper_half .u16 _ _).trans rfl
theorem TableMatch.extI16 (offset dest : Byte) : TableMatch.Statement (.extI16 offset dest) := fun _ => (TableMatch.descWord_upper_half .i16 _ _).trans rfl
theorem TableMatch.extU32 (offset dest : Byte) : TableMatch.Statement (.extU32 offset dest) := fun _ => (TableMatch.descWord_upper_half .u32 _ _).trans rfl
theorem TableMatch.extI32 (offset dest : Byte) : TableMatch.Statement (.extI32 offset dest) := fun _ => (TableMatch.descWord_upper_half .i32 _ _).trans rfl
theorem TableMatch.extF32 (offset dest : Byte) : TableMatch.Statement (.extF32 offset dest) := fun _ => (TableMatch.descWord_upper_half .f32 _ _).trans rfl
theorem TableMatch.reservedKind7 (rest : BitVec 28) : TableMatch.Statement (.reservedKind7 rest) := by
  intro _
  apply BitVec.eq_of_getLsbD_eq
  intro i hi
  change BitVec.getLsbD (((7 : BitVec 4) ++ rest) &&& 0xf0000000) i = BitVec.getLsbD (0x70000000 : BitVec 32) i
  rw [BitVec.getLsbD_and, BitVec.getLsbD_append]
  interval_cases i <;> simp
theorem TableMatch.reservedKind8to15 (rest : BitVec 31) : TableMatch.Statement (.reservedKind8to15 rest) := by
  intro _
  apply BitVec.eq_of_getLsbD_eq
  intro i hi
  change BitVec.getLsbD (((1 : BitVec 1) ++ rest) &&& 0x80000000) i = BitVec.getLsbD (0x80000000 : BitVec 32) i
  rw [BitVec.getLsbD_and, BitVec.getLsbD_append]
  interval_cases i <;> simp
theorem TableMatch.msgObj : TableMatch.Statement .msgObj := fun _ => rfl
theorem TableMatch.msgObjReq : TableMatch.Statement .msgObjReq := fun _ => rfl
theorem TableMatch.msgObjAck : TableMatch.Statement .msgObjAck := fun _ => rfl
theorem TableMatch.msgAck : TableMatch.Statement .msgAck := fun _ => rfl
theorem TableMatch.msgNack : TableMatch.Statement .msgNack := fun _ => rfl
theorem TableMatch.msgReserved25 : TableMatch.Statement .msgReserved25 := fun _ => rfl
theorem TableMatch.msgReserved26 : TableMatch.Statement .msgReserved26 := fun _ => rfl
theorem TableMatch.msgReserved27 : TableMatch.Statement .msgReserved27 := fun _ => rfl
theorem TableMatch.msgReserved28 : TableMatch.Statement .msgReserved28 := fun _ => rfl
theorem TableMatch.msgReserved29 : TableMatch.Statement .msgReserved29 := fun _ => rfl
theorem TableMatch.msgReserved2A : TableMatch.Statement .msgReserved2A := fun _ => rfl
theorem TableMatch.msgReserved2B : TableMatch.Statement .msgReserved2B := fun _ => rfl
theorem TableMatch.msgReserved2C : TableMatch.Statement .msgReserved2C := fun _ => rfl
theorem TableMatch.msgReserved2D : TableMatch.Statement .msgReserved2D := fun _ => rfl
theorem TableMatch.msgReserved2E : TableMatch.Statement .msgReserved2E := fun _ => rfl
theorem TableMatch.msgReserved2F : TableMatch.Statement .msgReserved2F := fun _ => rfl
theorem TableMatch.msgVersionCheck (ty : Nibble) : TableMatch.Statement (.msgVersionCheck ty) := by
  revert ty; unfold TableMatch.Statement; decide
theorem TableMatch.rxIdleSync : TableMatch.Statement .rxIdleSync := fun _ => rfl
theorem TableMatch.rxIdleOther (b : Byte) : TableMatch.Statement (.rxIdleOther b) := by
  revert b; unfold TableMatch.Statement; decide
theorem TableMatch.rxGotSyncVersionOk (ty : Nibble) : TableMatch.Statement (.rxGotSyncVersionOk ty) := by
  revert ty; unfold TableMatch.Statement; decide
theorem TableMatch.rxGotSyncBadVersion (b : Byte) : TableMatch.Statement (.rxGotSyncBadVersion b) := by
  revert b; unfold TableMatch.Statement; decide
theorem TableMatch.rxReadingLength (b : Byte) : TableMatch.Statement (.rxReadingLength b) := by
  revert b; unfold TableMatch.Statement; decide
theorem TableMatch.rxReadingObjectId (b : Byte) : TableMatch.Statement (.rxReadingObjectId b) := by
  revert b; unfold TableMatch.Statement; decide
theorem TableMatch.rxReadingInstanceId (b : Byte) : TableMatch.Statement (.rxReadingInstanceId b) := by
  revert b; unfold TableMatch.Statement; decide
theorem TableMatch.rxReadingData (b : Byte) : TableMatch.Statement (.rxReadingData b) := by
  revert b; unfold TableMatch.Statement; decide
theorem TableMatch.rxAwaitCrc (b : Byte) : TableMatch.Statement (.rxAwaitCrc b) := by
  revert b; unfold TableMatch.Statement; decide
theorem TableMatch.rxIllFormedState (b : Byte) : TableMatch.Statement (.rxIllFormedState b) := by
  revert b; unfold TableMatch.Statement; decide

end Sys2Proof.Laws
end

