-- ==== Sys2Proof/Tests/Slice0.lean ====
section
/-! SUPPORT. The model's own tests. Words are written out bit by bit from spec 30_encoding.md; results are those of
spec 95_test_vectors.md and 40_crc8_engine.md R103. Then, for every statement with hypotheses, a state and operands
that meet them. -/

namespace Sys2Proof.Tests

open Sys2Proof.Machine

/-! ### What the well-formedness checks refuse -/

/-- Codes under which the nibble 5 is a type code and the nibble 0 is none. -/
def swappedCodes : Config := { Config.default with typeObj := 0x5 }

theorem test_wf_refuses_a_field_past_the_buffer :
    (Instr.extU32 252 0).wellFormed Config.default = false := by decide
theorem test_wf_refuses_a_half_field_past_the_buffer :
    (Instr.extU16 254 0).wellFormed Config.default = false := by decide
theorem test_wf_refuses_a_byte_field_past_the_buffer :
    (Instr.extI8 255 0).wellFormed Config.default = false := by decide
theorem test_wf_refuses_a_slot_that_does_not_exist :
    (Instr.extF32 0 16).wellFormed Config.default = false := by decide
theorem test_wf_accepts_the_last_field :
    (Instr.extU32 251 15).wellFormed Config.default = true := by decide
theorem test_wf_refuses_a_reserved_row_that_is_a_type :
    Instr.msgReserved25.wellFormed swappedCodes = false := by decide
theorem test_wf_refuses_a_named_type_in_the_open_row :
    (Instr.msgVersionCheck 0x1).wellFormed Config.default = false := by decide
theorem test_wf_refuses_a_reserved_row_in_the_open_row :
    (Instr.msgVersionCheck 0x7).wellFormed Config.default = false := by decide
theorem test_wf_refuses_the_sync_byte_as_other :
    (Instr.rxIdleOther 0x3C).wellFormed Config.default = false := by decide
theorem test_wf_refuses_a_good_version_as_bad :
    (Instr.rxGotSyncBadVersion 0x2F).wellFormed Config.default = false := by decide

/-! ### Every row, from a word written out (R72, R80, R82, R86, R88) -/

theorem test_decode_rxNone : decode Config.default (.action 0b00000000000#11) = .ok .rxNone := by decide
theorem test_decode_rxByte : decode Config.default (.action 0b00111111111#11) = .ok (.rxByte 0xFF) := by decide
theorem test_decode_rxError : decode Config.default (.action 0b01000000000#11) = .ok .rxError := by decide
theorem test_decode_dispatch : decode Config.default (.action 0b01100000000#11) = .ok .dispatch := by decide
theorem test_decode_reset : decode Config.default (.action 0b10000000000#11) = .ok .reset := by decide
theorem test_decode_reserved101 :
    decode Config.default (.action 0b10100000001#11) = .ok (.reservedAction101 1) := by decide
theorem test_decode_reserved110 :
    decode Config.default (.action 0b11000000000#11) = .ok (.reservedAction110 0) := by decide
theorem test_decode_reserved111 :
    decode Config.default (.action 0b11111111111#11) = .ok (.reservedAction111 0xFF) := by decide
theorem test_decode_rxNone_with_data :
    decode Config.default (.action 0b00000000001#11) = .error .reservedAction := by decide
theorem test_decode_rxError_with_data :
    decode Config.default (.action 0b01011111111#11) = .error .reservedAction := by decide
theorem test_decode_crcStep :
    decode Config.default (.crcPort 0b0001001000110100#16) = .ok (.crcStep 0x12 0x34) := by decide
theorem test_decode_extU8 :
    decode Config.default (.descriptor 0b00000000000000000000000100000010#32) = .ok (.extU8 1 2) := by decide
theorem test_decode_extI8 :
    decode Config.default (.descriptor 0b00010000000000000000000000000000#32) = .ok (.extI8 0 0) := by decide
theorem test_decode_extU16 :
    decode Config.default (.descriptor 0b00100000000000000000011100000111#32) = .ok (.extU16 7 7) := by decide
theorem test_decode_extI16 :
    decode Config.default (.descriptor 0b00110000000000000000001000000011#32) = .ok (.extI16 2 3) := by decide
theorem test_decode_extU32 :
    decode Config.default (.descriptor 0b01000000000000001111101100000000#32) = .ok (.extU32 251 0) := by decide
theorem test_decode_extI32 :
    decode Config.default (.descriptor 0b01010000000000000000010000000101#32) = .ok (.extI32 4 5) := by decide
theorem test_decode_extF32 :
    decode Config.default (.descriptor 0b01100000000000000000010000000110#32) = .ok (.extF32 4 6) := by decide
theorem test_decode_reservedKind7 :
    decode Config.default (.descriptor 0b01110000000000000000000000000000#32) = .ok (.reservedKind7 0) := by decide
theorem test_decode_reservedKind8to15 :
    decode Config.default (.descriptor 0b10000000000000000000000000000001#32) = .ok (.reservedKind8to15 1) := by
  decide
theorem test_decode_descriptor_with_reserved_bit :
    decode Config.default (.descriptor 0b00000000000000010000000000000000#32) = .error .badDescriptor := by decide
theorem test_decode_msgObj : decode Config.default (.msgType 0b00100000#8) = .ok .msgObj := by decide
theorem test_decode_msgObjReq : decode Config.default (.msgType 0b00100001#8) = .ok .msgObjReq := by decide
theorem test_decode_msgObjAck : decode Config.default (.msgType 0b00100010#8) = .ok .msgObjAck := by decide
theorem test_decode_msgAck : decode Config.default (.msgType 0b00100011#8) = .ok .msgAck := by decide
theorem test_decode_msgNack : decode Config.default (.msgType 0b00100100#8) = .ok .msgNack := by decide
theorem test_decode_msgReserved25 : decode Config.default (.msgType 0b00100101#8) = .ok .msgReserved25 := by decide
theorem test_decode_msgReserved26 : decode Config.default (.msgType 0b00100110#8) = .ok .msgReserved26 := by decide
theorem test_decode_msgReserved27 : decode Config.default (.msgType 0b00100111#8) = .ok .msgReserved27 := by decide
theorem test_decode_msgReserved28 : decode Config.default (.msgType 0b00101000#8) = .ok .msgReserved28 := by decide
theorem test_decode_msgReserved29 : decode Config.default (.msgType 0b00101001#8) = .ok .msgReserved29 := by decide
theorem test_decode_msgReserved2A : decode Config.default (.msgType 0b00101010#8) = .ok .msgReserved2A := by decide
theorem test_decode_msgReserved2B : decode Config.default (.msgType 0b00101011#8) = .ok .msgReserved2B := by decide
theorem test_decode_msgReserved2C : decode Config.default (.msgType 0b00101100#8) = .ok .msgReserved2C := by decide
theorem test_decode_msgReserved2D : decode Config.default (.msgType 0b00101101#8) = .ok .msgReserved2D := by decide
theorem test_decode_msgReserved2E : decode Config.default (.msgType 0b00101110#8) = .ok .msgReserved2E := by decide
theorem test_decode_msgReserved2F : decode Config.default (.msgType 0b00101111#8) = .ok .msgReserved2F := by decide
/-- The row with the open type nibble: 0x20 where no type code is 0 (log 11). -/
theorem test_decode_msgVersionCheck :
    decode swappedCodes (.msgType 0b00100000#8) = .ok (.msgVersionCheck 0) := by decide
theorem test_decode_msgType_bad_version :
    decode Config.default (.msgType 0b00010000#8) = .ok (.rxGotSyncBadVersion 0x10) := by decide
theorem test_decode_rxIdleSync : decode Config.default (.codecKey 0b00000111100#11) = .ok .rxIdleSync := by decide
theorem test_decode_rxIdleOther :
    decode Config.default (.codecKey 0b00000010001#11) = .ok (.rxIdleOther 0x11) := by decide
theorem test_decode_rxGotSyncVersionOk :
    decode Config.default (.codecKey 0b00100101111#11) = .ok (.rxGotSyncVersionOk 0xF) := by decide
theorem test_decode_rxGotSyncBadVersion :
    decode Config.default (.codecKey 0b00100111100#11) = .ok (.rxGotSyncBadVersion 0x3C) := by decide
theorem test_decode_rxReadingLength :
    decode Config.default (.codecKey 0b01000001000#11) = .ok (.rxReadingLength 0x08) := by decide
theorem test_decode_rxReadingObjectId :
    decode Config.default (.codecKey 0b01101111000#11) = .ok (.rxReadingObjectId 0x78) := by decide
theorem test_decode_rxReadingInstanceId :
    decode Config.default (.codecKey 0b10010100001#11) = .ok (.rxReadingInstanceId 0xA1) := by decide
theorem test_decode_rxReadingData :
    decode Config.default (.codecKey 0b10101111111#11) = .ok (.rxReadingData 0x7F) := by decide
theorem test_decode_rxAwaitCrc :
    decode Config.default (.codecKey 0b11001101011#11) = .ok (.rxAwaitCrc 0x6B) := by decide
theorem test_decode_rxIllFormedState :
    decode Config.default (.codecKey 0b11100000000#11) = .ok (.rxIllFormedState 0) := by decide
/-- The host's numbers: a bare 16-bit number that spells an action is that action (log 4). -/
theorem test_table_words :
    decodeTableWord 16 0x13C = some (.rxByte 0x3C) ∧ decodeTableWord 16 0x03C = some .rxIdleSync ∧
      decodeTableWord 16 0x1234 = some (.crcStep 0x12 0x34) ∧ decodeTableWord 8 0x22 = some .msgObjAck ∧
      decodeTableWord 32 0x60000406 = some (.extF32 4 6) ∧ decodeTableWord 32 0x00010000 = none := by decide

/-! ### The CRC table (40_crc8_engine.md R103, R106, R108) -/

theorem test_crc_table_row_0 :
    ((List.range 16).map fun i => crcTable (BitVec.ofNat 8 i)) =
      [0x00, 0x07, 0x0E, 0x09, 0x1C, 0x1B, 0x12, 0x15, 0x38, 0x3F, 0x36, 0x31, 0x24, 0x23, 0x2A, 0x2D] := by
  decide
theorem test_crc_table_row_8 :
    ((List.range 16).map fun i => crcTable (BitVec.ofNat 8 (128 + i))) =
      [0x89, 0x8E, 0x87, 0x80, 0x95, 0x92, 0x9B, 0x9C, 0xB1, 0xB6, 0xBF, 0xB8, 0xAD, 0xAA, 0xA3, 0xA4] := by
  decide
theorem test_crc_table_row_F :
    ((List.range 16).map fun i => crcTable (BitVec.ofNat 8 (240 + i))) =
      [0xDE, 0xD9, 0xD0, 0xD7, 0xC2, 0xC5, 0xCC, 0xCB, 0xE6, 0xE1, 0xE8, 0xEF, 0xFA, 0xFD, 0xF4, 0xF3] := by
  decide
set_option maxRecDepth 20000 in
theorem test_crc_fold_order : crcFold 0 [0x01, 0x00] = 0x15 ∧ crcFold 0 [0x00, 0x01] = 0x07 := by decide
theorem test_crc_fold_header :
    crcFold 0 [0x3C, 0x20, 0x08, 0x00, 0x78, 0x56, 0x34, 0x12] = 0x6B := by
  simp only [crcFold_cons, crcFold_nil, show crcStep 0 0x3C = 0xB4 by decide,
    show crcStep 0xB4 0x20 = 0xE5 by decide, show crcStep 0xE5 0x08 = 0x8D by decide,
    show crcStep 0x8D 0 = 0xAA by decide, show crcStep 0xAA 0x78 = 0x30 by decide,
    show crcStep 0x30 0x56 = 0x35 by decide, show crcStep 0x35 0x34 = 0x07 by decide,
    show crcStep 0x07 0x12 = 0x6B by decide]

/-! ### One step at a time (95_test_vectors.md) -/

/-- What a test looks at of a result: the block, the outputs and the trace. -/
def after : Result → Option (Block × Outputs × List Cause)
  | .next t => some (t.blk, t.out, t.trace)
  | .fault _ => none
  | .refused _ => none

/-- The refusal of a result. -/
def refusal : Result → Option Refusal
  | .next _ => none
  | .fault _ => none
  | .refused r => some r

/-- The fault of a result. -/
def faultOf : Result → Option Fault
  | .next _ => none
  | .fault f => some f
  | .refused _ => none

/-- The reset state with another block and an empty trace. -/
def holding (x : Block) : State := { State.reset with blk := x, trace := [] }

/-- A block in the middle of a frame that began with the sync byte. -/
def mid (st : CodecState) (acc cnt ty : Byte) (len : Half) (oid : Word) : Block :=
  { Block.reset with st := st, acc := acc, cnt := cnt, mSync := 0x3C, mType := ty, mLen := len, mOid := oid }

/-- The frame FD of 95_test_vectors.md, held. -/
def heldFD : Block :=
  { mid .idle 0x03 0 0x20 18 0x77 with
    mCrc := 0x03, held := true
    data := [(0, 0x7F), (1, 0xFF), (2, 0x00), (3, 0x80), (4, 0x00), (5, 0x00), (6, 0x00), (7, 0x80)] }

/-- A configuration with one layout entry. -/
def withEntry (oid : Word) (descs : List Word) : Config :=
  { Config.default with layouts := [{ oid := oid, descs := descs }] }

theorem test_rxNone_clears_outputs :
    after (exec .rxNone { holding (mid .gotSync 0xB4 0 0 0 0) with out := verdictOutputs .valid }) =
      some (mid .gotSync 0xB4 0 0 0 0, Outputs.idle, []) := by decide
theorem test_rxByte_reserved_type :
    after (exec (.rxByte 0x2F) (holding (mid .gotSync 0xB4 0 0 0 0))) =
      some (mid .readingLength 0xC8 0 0x2F 0 0, Outputs.idle, []) := by decide
theorem test_rxByte_while_held : refusal (exec (.rxByte 0x3C) (holding heldFD)) = some .notEnabled := by decide
theorem test_rxError_in_idle :
    after (exec .rxError (holding Block.reset)) =
      some (Block.reset, Outputs.idle, [.transportAbort .idle]) := by decide
theorem test_rxError_aborts_a_frame :
    after (exec .rxError (holding (mid .readingObjectId 0x30 1 0x20 8 0x78))) =
      some (mid .idle 0x30 1 0x20 8 0x78, Outputs.idle, [.transportAbort .readingObjectId]) := by decide
theorem test_dispatch_two_writes_of_one_slot :
    after (exec .dispatch { holding heldFD with cfg := withEntry 0x77 [0x0000000B, 0x0000010B, 0x20000707] }) =
      some ({ heldFD with held := false, telem := [(11, 0xFF)] },
        { Outputs.idle with dispDone := true, dispChanged := true, dispShort := true },
        [.shortField 0x20000707]) := by decide
theorem test_dispatch_not_held : refusal (exec .dispatch (holding Block.reset)) = some .notEnabled := by decide
theorem test_reset_of_a_held_message :
    after (exec .reset { holding { heldFD with txq := [1], telem := [(6, 0)] } with trace := [.ackSent 1] }) =
      some (Block.reset, Outputs.idle, [.ackSent 1, .reset]) := by decide
theorem test_reset_refuses_two_entries_of_one_object :
    refusal (exec .reset { State.reset with hostCfg :=
      { Config.default with layouts := [{ oid := 0x77, descs := [] }, { oid := 0x77, descs := [0] }] } }) =
      some .badLayout := by decide
theorem test_crcStep_of_the_type_byte :
    after (exec (.crcStep 0xB4 0x20) State.reset) =
      some (Block.reset, { Outputs.idle with crcOut := some 0xE5 }, [.reset]) := by decide
theorem test_crcStep_last_entry :
    after (exec (.crcStep 0x7F 0x80) State.reset) =
      some (Block.reset, { Outputs.idle with crcOut := some 0xF3 }, [.reset]) := by decide

/-- What one field does to the reset slots of the held frame FD. -/
def slotsAfter (i : Instr) : Option (List (Nat × Word) × Bool × Bool) :=
  (after (exec i (holding heldFD))).map fun r => (r.1.telem, r.2.1.dispChanged, r.2.1.dispShort)

theorem test_extU8 : slotsAfter (.extU8 1 2) = some ([(2, 0x000000FF)], true, false) := by decide
theorem test_extU8_last_byte : slotsAfter (.extU8 7 8) = some ([(8, 0x00000080)], true, false) := by decide
theorem test_extI8_positive : slotsAfter (.extI8 0 0) = some ([(0, 0x0000007F)], true, false) := by decide
theorem test_extI8_negative : slotsAfter (.extI8 1 1) = some ([(1, 0xFFFFFFFF)], true, false) := by decide
theorem test_extU16 : slotsAfter (.extU16 2 4) = some ([(4, 0x00008000)], true, false) := by decide
theorem test_extU16_short : slotsAfter (.extU16 7 7) = some ([], false, true) := by decide
theorem test_extI16 : slotsAfter (.extI16 2 3) = some ([(3, 0xFFFF8000)], true, false) := by decide
theorem test_extU32 : slotsAfter (.extU32 4 10) = some ([(10, 0x80000000)], true, false) := by decide
theorem test_extU32_short : slotsAfter (.extU32 5 9) = some ([], false, true) := by decide
theorem test_extI32 : slotsAfter (.extI32 4 5) = some ([(5, 0x80000000)], true, false) := by decide
theorem test_extF32 : slotsAfter (.extF32 4 6) = some ([(6, 0x80000000)], true, false) := by decide
theorem test_ext_unchanged_slot :
    after (exec (.extU8 0 11) (holding { heldFD with telem := [(11, 0x7F)] })) =
      some ({ heldFD with telem := [(11, 0x7F)] }, Outputs.idle, []) := by decide

/-- Every msg_type row in GotSync stores its byte; the accumulators are from R103. -/
def typeAfter (i : Instr) : Option (CodecState × Byte × Byte) :=
  (after (exec i (holding (mid .gotSync 0xB4 0 0 0 0)))).map fun r => (r.1.st, r.1.mType, r.1.acc)

theorem test_msgObj : typeAfter .msgObj = some (.readingLength, 0x20, 0xE5) := by decide
theorem test_msgObjReq : typeAfter .msgObjReq = some (.readingLength, 0x21, 0xE2) := by decide
theorem test_msgObjAck : typeAfter .msgObjAck = some (.readingLength, 0x22, 0xEB) := by decide
theorem test_msgAck : typeAfter .msgAck = some (.readingLength, 0x23, 0xEC) := by decide
theorem test_msgNack : typeAfter .msgNack = some (.readingLength, 0x24, 0xF9) := by decide
theorem test_msgReserved25 : typeAfter .msgReserved25 = some (.readingLength, 0x25, 0xFE) := by decide
theorem test_msgReserved26 : typeAfter .msgReserved26 = some (.readingLength, 0x26, 0xF7) := by decide
theorem test_msgReserved27 : typeAfter .msgReserved27 = some (.readingLength, 0x27, 0xF0) := by decide
theorem test_msgReserved28 : typeAfter .msgReserved28 = some (.readingLength, 0x28, 0xDD) := by decide
theorem test_msgReserved29 : typeAfter .msgReserved29 = some (.readingLength, 0x29, 0xDA) := by decide
theorem test_msgReserved2A : typeAfter .msgReserved2A = some (.readingLength, 0x2A, 0xD3) := by decide
theorem test_msgReserved2B : typeAfter .msgReserved2B = some (.readingLength, 0x2B, 0xD4) := by decide
theorem test_msgReserved2C : typeAfter .msgReserved2C = some (.readingLength, 0x2C, 0xC1) := by decide
theorem test_msgReserved2D : typeAfter .msgReserved2D = some (.readingLength, 0x2D, 0xC6) := by decide
theorem test_msgReserved2E : typeAfter .msgReserved2E = some (.readingLength, 0x2E, 0xCF) := by decide
theorem test_msgReserved2F : typeAfter .msgReserved2F = some (.readingLength, 0x2F, 0xC8) := by decide
theorem test_msgVersionCheck : typeAfter (.msgVersionCheck 0xF) = some (.readingLength, 0x2F, 0xC8) := by decide

theorem test_rxIdleSync :
    after (exec .rxIdleSync (holding Block.reset)) =
      some (mid .gotSync 0xB4 0 0 0 0, Outputs.idle, []) := by decide
theorem test_rxIdleOther :
    after (exec (.rxIdleOther 0x11) (holding Block.reset)) =
      some (Block.reset, Outputs.idle, [.idleDiscard 0x11]) := by decide
theorem test_rxGotSyncVersionOk :
    after (exec (.rxGotSyncVersionOk 0x0) (holding (mid .gotSync 0xB4 0 0 0 0))) =
      some (mid .readingLength 0xE5 0 0x20 0 0, Outputs.idle, []) := by decide
theorem test_rxGotSyncBadVersion_second_sync :
    after (exec (.rxGotSyncBadVersion 0x3C) (holding (mid .gotSync 0xB4 0 0 0 0))) =
      some (mid .idle 0xB1 0 0 0 0, Outputs.idle, [.badVersion 0x3C]) := by decide
theorem test_rxReadingLength_263 :
    after (exec (.rxReadingLength 0x01) (holding (mid .readingLength 0xA0 1 0x20 7 0))) =
      some (mid .readingObjectId 0x6E 0 0x20 263 0, Outputs.idle, []) := by decide
theorem test_rxReadingLength_264 :
    after (exec (.rxReadingLength 0x01) (holding (mid .readingLength 0x8D 1 0x20 8 0))) =
      some (mid .idle 0xAD 0 0x20 264 0, Outputs.idle, [.badLength 264]) := by decide
theorem test_rxReadingObjectId_header_only :
    after (exec (.rxReadingObjectId 0x12) (holding (mid .readingObjectId 0x07 3 0x20 8 0x00345678))) =
      some (mid .awaitCrc 0x6B 0 0x20 8 0x12345678, Outputs.idle, []) := by decide
theorem test_rxReadingObjectId_with_payload :
    after (exec (.rxReadingObjectId 0xAA) (holding (mid .readingObjectId 0x03 3 0x20 14 0x00BBCCDD))) =
      some (mid .readingInstanceId 0x56 0 0x20 14 0xAABBCCDD, Outputs.idle, []) := by decide
theorem test_rxReadingInstanceId_no_data :
    after (exec (.rxReadingInstanceId 0xA1)
      (holding { mid .readingInstanceId 0x8F 1 0x20 9 0x55 with mIid := 0xA0 })) =
      some ({ mid .awaitCrc 0xCA 0 0x20 9 0x55 with mIid := 0xA1A0 }, Outputs.idle, []) := by decide
theorem test_rxReadingInstanceId_one_data_byte :
    after (exec (.rxReadingInstanceId 0xA1)
      (holding { mid .readingInstanceId 0x36 1 0x20 11 0x55 with mIid := 0xA0 })) =
      some ({ mid .readingData 0xEC 0 0x20 11 0x55 with mIid := 0xA1A0 }, Outputs.idle, []) := by decide
theorem test_rxReadingData_last_byte :
    after (exec (.rxReadingData 0x7F)
      (holding { mid .readingData 0x25 3 0x22 14 0xAABBCCDD with data := [(0, 1), (1, 0x80), (2, 0xFF)] })) =
      some ({ mid .awaitCrc 0x81 0 0x22 14 0xAABBCCDD with data := [(0, 1), (1, 0x80), (2, 0xFF), (3, 0x7F)] },
        Outputs.idle, []) := by decide
theorem test_rxReadingData_overrun :
    faultOf (exec (.rxReadingData 0) (holding (mid .readingData 0 255 0x20 263 0))) =
      some .payloadOverrun := by decide
theorem test_rxAwaitCrc_valid_with_ack :
    (after (exec (.rxAwaitCrc 0x81) (holding (mid .awaitCrc 0x81 0 0x22 14 0xAABBCCDD)))).map
        (fun r => (r.1.held, r.1.txq.take 8, r.2.1.verdict, r.2.2)) =
      some (true, [0x3C, 0x23, 0x08, 0x00, 0xDD, 0xCC, 0xBB, 0xAA], .valid,
        [.frameValid 0xAABBCCDD 0x22 14, .ackSent 0xAABBCCDD]) := by decide
theorem test_rxAwaitCrc_sync_byte_is_only_a_crc_byte :
    after (exec (.rxAwaitCrc 0x3C) (holding (mid .awaitCrc 0x6B 0 0x20 8 0x12345678))) =
      some ({ mid .idle 0x6B 0 0x20 8 0x12345678 with mCrc := 0x3C },
        verdictOutputs .invalid, [.crcMismatch 0x3C 0x6B]) := by decide
theorem test_rxIllFormedState :
    faultOf (exec (.rxIllFormedState 0) (holding (mid .illFormed 0 0 0 0 0))) = some .illFormedState := by decide

/-! ### A step -/

theorem test_step_fetches_the_placed_word :
    after (step (State.reset.withFetchWord 16 0x13C)) =
      some (mid .gotSync 0xB4 0 0 0 0, Outputs.idle, [.reset]) := by decide
theorem test_step_refuses_a_reserved_word :
    refusal (step (State.reset.withFetchWord 16 0x7FF)) = some .reservedAction := by decide
theorem test_withFetchWord_of_a_descriptor :
    (after (step (State.reset.withFetchWord 32 0x10000000))).map (fun r => r.2.2) =
      some [.reset, .shortField 0x10000000] := by decide
theorem test_step_reset_request_wins :
    (after (step { State.reset with resetReq := true, script := [actionWord 1 0x3C] })).map (fun r => r.2.2) =
      some [.reset, .reset] := by decide
theorem test_unwritten_slot_faults :
    readSlot 15 State.reset = .error .unwrittenSlot ∧ readSlot 16 State.reset = .error .noSuchCell := by decide
theorem test_stimulus_expands :
    ((stimulusWords Config.default (.headerFrame .obj 0x12345678 true)).take 8) =
      [0x13C, 0x120, 0x108, 0x100, 0x178, 0x156, 0x134, 0x112].map CodeWord.action := by decide

/-! ### Witnesses: a state and operands that meet the hypotheses of each statement, clause by clause -/

theorem witness_decode_of_encode :
    configRefusal Config.default = none ∧ (Instr.extF32 251 15).wellFormed Config.default = true ∧
      configRefusal swappedCodes = none ∧ (Instr.msgVersionCheck 0).wellFormed swappedCodes = true := by decide
theorem witness_encode_of_decode :
    configRefusal Config.default = none ∧ decode Config.default (.msgType 0x2F) = .ok .msgReserved2F ∧
      (0x2F : Byte).extractLsb' 4 4 = Config.default.version ∧
      decode Config.default (.descriptor 0x4000FB0F) = .ok (.extU32 251 15) := by decide

/-- A state whose next input is a word. -/
def offered (w : CodeWord) : State := { State.reset with script := [w] }

theorem witness_reserved_action_code :
    configRefusal (offered (.action 0x500)).cfg = none ∧ (offered (.action 0x500)).resetReq = false ∧
      5 ≤ ((0x500 : BitVec 11).extractLsb' 8 3).toNat := by decide
theorem witness_reserved_action_data :
    configRefusal (offered (.action 0x4FF)).cfg = none ∧ (offered (.action 0x4FF)).resetReq = false ∧
      ((0x4FF : BitVec 11).extractLsb' 8 3).toNat ≠ 1 ∧ (0x4FF : BitVec 11).extractLsb' 0 8 ≠ 0 := by decide
theorem witness_reserved_rows :
    (holding (mid .illFormed 0 0 0 0 0)).blk.held = false ∧
      (holding (mid .illFormed 0 0 0 0 0)).blk.st = .illFormed := by decide
theorem witness_crc_zeros : ∀ b ∈ [(0 : Byte), 0, 0], b = 0 := by decide
theorem witness_crc_single_byte : (0xFE : Byte) ≠ 0xFF := by decide
theorem witness_memWrite_in_bounds : 254 < 255 := by decide
theorem witness_memWrite_overrun :
    255 ≤ 255 ∧ (holding (mid .readingData 0 255 0x20 263 0)).blk.held = false ∧
      (holding (mid .readingData 0 255 0x20 263 0)).blk.st = .readingData ∧
      (holding (mid .readingData 0 255 0x20 263 0)).blk.cnt.toNat = 255 := by decide

/-- The last four cells of the payload buffer. -/
def lastCells : List Host.Cell := [(251, 0x10), (252, 0x20), (253, 0x30), (254, 0xFE)]

theorem witness_memRead_byte : storeRead 254 lastCells = some 0xFE ∧ 254 + 1 ≤ 255 := by decide
theorem witness_memRead_half :
    storeRead 253 lastCells = some 0x30 ∧ 253 + 2 ≤ 255 ∧ storeRead (253 + 1) lastCells = some 0xFE := by decide
theorem witness_memRead_word :
    storeRead 251 lastCells = some 0x10 ∧ 251 + 4 ≤ 255 ∧ storeRead (251 + 1) lastCells = some 0x20 ∧
      storeRead (251 + 2) lastCells = some 0x30 ∧ storeRead (251 + 3) lastCells = some 0xFE := by decide
theorem witness_memRead_unwritten : 250 + 4 ≤ 255 ∧ storeRead 250 lastCells = none := by decide
/-- The reset buffer, at its first and its last cell. -/
theorem witness_memRead_reset_buffer :
    0 + 4 ≤ 255 ∧ storeRead 3 State.reset.blk.data = none ∧ 254 + 1 ≤ 255 ∧
      storeRead 254 State.reset.blk.data = none := by decide
theorem witness_overlapping_word : memRead lastCells 251 4 = .ok 0xFE302010 := by decide
theorem witness_overlapping_half : memRead lastCells 253 2 = .ok 0x0000FE30 := by decide

theorem witness_step_next :
    configRefusal State.reset.cfg = none ∧ decode State.reset.cfg State.reset.nextWord = .ok .rxNone ∧
      (after (exec .rxNone State.reset)).isSome = true := by decide
theorem witness_step_fault :
    let s := { offered (.action 0x100) with blk := mid .illFormed 0 0 0 0 0 }
    configRefusal s.cfg = none ∧ decode s.cfg s.nextWord = .ok (.rxByte 0) ∧
      faultOf (exec (.rxByte 0) s) = some .illFormedState := by decide
theorem witness_step_refused :
    let s := offered (.action 0x300)
    configRefusal s.cfg = none ∧ decode s.cfg s.nextWord = .ok .dispatch ∧
      refusal (exec .dispatch s) = some .notEnabled := by decide
theorem witness_reset_request :
    let s := { offered (.action 0x13C) with resetReq := true }
    configRefusal s.cfg = none ∧ s.resetReq = true ∧ configRefusal s.hostCfg = none := by decide
theorem witness_script_head :
    (offered (.action 0x13C)).resetReq = false ∧ (offered (.action 0x13C)).script = [.action 0x13C] := by decide
theorem witness_script_empty : State.reset.resetReq = false ∧ State.reset.script = [] := by decide
theorem witness_enabled_held : (holding heldFD).blk.held = true := by decide
theorem witness_enabled_free :
    State.reset.blk.held = false ∧ fieldFits State.reset.cfg .f32 251 15 = true ∧
      configRefusal State.reset.hostCfg = none := by decide
theorem witness_rxError_in_frame :
    (holding (mid .awaitCrc 0 0 0x20 8 0)).blk.held = false ∧
      (holding (mid .awaitCrc 0 0 0x20 8 0)).blk.st ≠ .idle := by decide
theorem witness_rxError_in_idle : State.reset.blk.held = false ∧ State.reset.blk.st = .idle := by decide
theorem witness_reset_configuration : configRefusal State.reset.hostCfg = none := by decide

/-- The conditions of 42_field_extractor.md R172, as the statement about them writes them. -/
def layoutConditions (cfg : Config) : Prop :=
  (∀ i j (hi : i < cfg.layouts.length) (hj : j < cfg.layouts.length), i ≠ j →
      cfg.layouts[i].oid ≠ cfg.layouts[j].oid) ∧
    ∀ e ∈ cfg.layouts, ∀ d ∈ e.descs,
      d.extractLsb' 16 12 = 0 ∧ (d.extractLsb' 0 8).toNat < cfg.nslots ∧
      ∃ k, (d.extractLsb' 28 4) = kindCode k ∧ (d.extractLsb' 8 8).toNat + fieldWidth k ≤ 255

theorem witness_parameters_good :
    ∀ n ∈ [1, 256], let cfg := { Config.default with nslots := n }
      [cfg.typeObj, cfg.typeObjReq, cfg.typeObjAck, cfg.typeAck, cfg.typeNack].Pairwise (· ≠ ·) ∧
        1 ≤ cfg.nslots ∧ cfg.nslots ≤ 256 := by decide
/-- Two equal type codes, no slot, and one slot too many, presented and in force. -/
theorem witness_parameters_bad :
    ∀ cfg ∈ [{ Config.default with typeNack := 0x0 }, { Config.default with nslots := 0 },
        { Config.default with nslots := 257 }],
      ¬ ([cfg.typeObj, cfg.typeObjReq, cfg.typeObjAck, cfg.typeAck, cfg.typeNack].Pairwise (· ≠ ·) ∧
        1 ≤ cfg.nslots ∧ cfg.nslots ≤ 256) ∧
      { State.reset with hostCfg := cfg, cfg := cfg }.hostCfg = cfg ∧
      { State.reset with hostCfg := cfg, cfg := cfg }.cfg = cfg := by decide
theorem witness_layouts_accepted :
    paramsOk (withEntry 1 [0x4000FB0F]) = true ∧ layoutConditions (withEntry 1 [0x4000FB0F]) := by
  refine ⟨by decide, fun i j hi hj hij => ?_, fun e he d hd => ?_⟩
  · simp only [withEntry, List.length_singleton] at hi hj
    omega
  · rw [List.mem_singleton.mp he] at hd
    rw [List.mem_singleton.mp hd]
    exact ⟨by decide, by decide, .u32, by decide, by decide⟩
theorem witness_layouts_two_entries :
    let cfg := { Config.default with layouts := [{ oid := 0x77, descs := [] }, { oid := 0x77, descs := [] }] }
    paramsOk cfg = true ∧ ¬ layoutConditions cfg :=
  ⟨by decide, fun h => h.1 0 1 (by decide) (by decide) (by decide) rfl⟩
theorem witness_layouts_reserved_bit :
    paramsOk (withEntry 1 [0x00010000]) = true ∧ ¬ layoutConditions (withEntry 1 [0x00010000]) :=
  ⟨by decide, fun h => absurd (h.2 _ (List.mem_singleton.mpr rfl) _ (List.mem_singleton.mpr rfl)).1 (by decide)⟩
theorem witness_layouts_slot_16 :
    paramsOk (withEntry 1 [0x00000010]) = true ∧ ¬ layoutConditions (withEntry 1 [0x00000010]) :=
  ⟨by decide, fun h =>
    absurd (h.2 _ (List.mem_singleton.mpr rfl) _ (List.mem_singleton.mpr rfl)).2.1 (by decide)⟩
theorem witness_layouts_kind_7 :
    paramsOk (withEntry 1 [0x70000000]) = true ∧ ¬ layoutConditions (withEntry 1 [0x70000000]) := by
  refine ⟨by decide, fun h => ?_⟩
  obtain ⟨k, hk, -⟩ := (h.2 _ (List.mem_singleton.mpr rfl) _ (List.mem_singleton.mpr rfl)).2.2
  revert hk
  cases k <;> decide
theorem witness_layouts_past_the_buffer :
    paramsOk (withEntry 1 [0x4000FC00]) = true ∧ ¬ layoutConditions (withEntry 1 [0x4000FC00]) := by
  refine ⟨by decide, fun h => ?_⟩
  obtain ⟨k, hk, hw⟩ := (h.2 _ (List.mem_singleton.mpr rfl) _ (List.mem_singleton.mpr rfl)).2.2
  revert hk hw
  cases k <;> decide

theorem witness_rxByte_idle :
    State.reset.blk.held = false ∧ State.reset.blk.st = .idle ∧ 0x3C = State.reset.cfg.syncVal ∧
      0x3D ≠ State.reset.cfg.syncVal := by decide
theorem witness_rxByte_gotSync :
    let s := holding (mid .gotSync 0xB4 0 0 0 0)
    s.blk.held = false ∧ s.blk.st = .gotSync ∧ (0x2F : Byte).extractLsb' 4 4 = s.cfg.version ∧
      (0x30 : Byte).extractLsb' 4 4 ≠ s.cfg.version := by decide
theorem witness_rxByte_readingLength_first :
    let s := holding (mid .readingLength 0xE5 0 0x20 0 0)
    s.blk.held = false ∧ s.blk.st = .readingLength ∧ s.blk.cnt = 0 := by decide
theorem witness_rxByte_readingLength_least :
    let s := holding (mid .readingLength 0 1 0x20 8 0)
    let len : Half := s.blk.mLen ||| ((0 : Byte).zeroExtend 16 <<< 8)
    s.blk.held = false ∧ s.blk.st = .readingLength ∧ s.blk.cnt ≠ 0 ∧ len.toNat = 8 := by decide
theorem witness_rxByte_readingLength_greatest :
    let s := holding (mid .readingLength 0 1 0x20 7 0)
    let len : Half := s.blk.mLen ||| ((1 : Byte).zeroExtend 16 <<< 8)
    s.blk.held = false ∧ s.blk.st = .readingLength ∧ s.blk.cnt ≠ 0 ∧ len.toNat = 263 := by decide
theorem witness_rxByte_readingLength_too_short :
    let s := holding (mid .readingLength 0 1 0x20 7 0)
    let len : Half := s.blk.mLen ||| ((0 : Byte).zeroExtend 16 <<< 8)
    s.blk.held = false ∧ s.blk.st = .readingLength ∧ s.blk.cnt ≠ 0 ∧ len.toNat = 7 := by decide
theorem witness_rxByte_readingLength_too_long :
    let s := holding (mid .readingLength 0 1 0x20 8 0)
    let len : Half := s.blk.mLen ||| ((1 : Byte).zeroExtend 16 <<< 8)
    s.blk.held = false ∧ s.blk.st = .readingLength ∧ s.blk.cnt ≠ 0 ∧ len.toNat = 264 := by decide
theorem witness_rxByte_readingObjectId_more :
    let s := holding (mid .readingObjectId 0 2 0x20 8 0)
    s.blk.held = false ∧ s.blk.st = .readingObjectId ∧ s.blk.cnt + 1 ≠ 4 := by decide
theorem witness_rxByte_readingObjectId_last :
    let s := holding (mid .readingObjectId 0 3 0x20 8 0)
    s.blk.held = false ∧ s.blk.st = .readingObjectId ∧ s.blk.cnt + 1 = 4 := by decide
theorem witness_rxByte_readingInstanceId_more :
    let s := holding (mid .readingInstanceId 0 0 0x20 9 0)
    s.blk.held = false ∧ s.blk.st = .readingInstanceId ∧ s.blk.cnt + 1 ≠ 2 := by decide
theorem witness_rxByte_readingInstanceId_last :
    let s := holding (mid .readingInstanceId 0 1 0x20 9 0)
    s.blk.held = false ∧ s.blk.st = .readingInstanceId ∧ s.blk.cnt + 1 = 2 := by decide

/-- Lengths that do not count the instance id: 255 data bytes in the longest frame (41_frame_codec.md R122). -/
def dataOnly : Config := { Config.default with lenCountsInstance := false }

theorem witness_rxByte_readingData_last :
    let s := { holding (mid .readingData 0 254 0x20 263 0) with cfg := dataOnly }
    s.blk.held = false ∧ s.blk.st = .readingData ∧ s.blk.cnt.toNat < 255 ∧
      s.blk.cnt.toNat + 1 = dataCount s.cfg s.blk.mLen := by decide
theorem witness_rxByte_readingData_more :
    let s := { holding (mid .readingData 0 253 0x20 263 0) with cfg := dataOnly }
    s.blk.held = false ∧ s.blk.st = .readingData ∧ s.blk.cnt.toNat < 255 ∧
      s.blk.cnt.toNat + 1 ≠ dataCount s.cfg s.blk.mLen := by decide
theorem witness_rxByte_awaitCrc_no_ack :
    let s := holding (mid .awaitCrc 0x6B 0 0x20 8 0)
    s.blk.held = false ∧ s.blk.st = .awaitCrc ∧ 0x6B = s.blk.acc ∧
      s.blk.mType.extractLsb' 0 4 ≠ s.cfg.typeObjAck ∧ 0x6A ≠ s.blk.acc := by decide
theorem witness_rxByte_awaitCrc_ack :
    let s := holding (mid .awaitCrc 0x81 0 0x22 8 0)
    s.blk.held = false ∧ s.blk.st = .awaitCrc ∧ 0x81 = s.blk.acc ∧
      s.blk.mType.extractLsb' 0 4 = s.cfg.typeObjAck := by decide
/-- Each state of the codec, on bytes that select its rows. -/
theorem witness_codec_step_rows :
    (∀ st ∈ [CodecState.idle, .gotSync, .readingLength, .readingObjectId, .readingInstanceId, .readingData,
        .awaitCrc],
      let s := holding (mid st 0 0 0x20 8 0)
      s.blk.held = false ∧ s.blk.st = st ∧ s.blk.cnt.toNat < 255 ∧ 0x3D ≠ s.cfg.syncVal ∧
        (0x3D : Byte).extractLsb' 4 4 ≠ s.cfg.version) ∧
      (holding (mid .readingData 0 254 0x20 263 0)).blk.cnt.toNat < 255 := by decide
theorem witness_row_of_a_key : (holding (mid .illFormed 0 0 0 0 0)).blk.held = false := by decide
theorem witness_rows_of_other_states :
    State.reset.blk.held = false ∧ stateCode State.reset.blk.st ≠ (0x13C : BitVec 11).extractLsb' 8 3 := by decide
theorem witness_rows_not_selected :
    State.reset.blk.held = false ∧ State.reset.blk.st = .idle ∧ State.reset.blk.st ≠ .gotSync ∧
      (holding (mid .gotSync 0xB4 0 0 0 0)).blk.held = false ∧
      (holding (mid .gotSync 0xB4 0 0 0 0)).blk.st = .gotSync ∧ (holding heldFD).blk.held = true ∧
      Instr.msgObj ∈ fixedMsgTypeRows ∧ Instr.msgReserved2F ∈ fixedMsgTypeRows := by decide

/-- A held message with 255 data bytes, of which the last four are written. -/
def heldFull : State :=
  { holding { mid .idle 0 0 0x20 263 0x77 with held := true, data := lastCells } with cfg := dataOnly }

theorem witness_byte_fields :
    heldFull.blk.held = true ∧ (254 : Byte).toNat + 1 ≤ 255 ∧ (15 : Byte).toNat < heldFull.cfg.nslots ∧
      (254 : Byte).toNat + 1 ≤ rxDataCount heldFull.cfg heldFull.blk.mLen ∧
      storeRead (254 : Byte).toNat heldFull.blk.data = some 0xFE := by decide
theorem witness_half_fields :
    heldFull.blk.held = true ∧ (253 : Byte).toNat + 2 ≤ 255 ∧ (15 : Byte).toNat < heldFull.cfg.nslots ∧
      (253 : Byte).toNat + 2 ≤ rxDataCount heldFull.cfg heldFull.blk.mLen ∧
      storeRead (253 : Byte).toNat heldFull.blk.data = some 0x30 ∧
      storeRead ((253 : Byte).toNat + 1) heldFull.blk.data = some 0xFE := by decide
theorem witness_word_fields :
    heldFull.blk.held = true ∧ (251 : Byte).toNat + 4 ≤ 255 ∧ (15 : Byte).toNat < heldFull.cfg.nslots ∧
      (251 : Byte).toNat + 4 ≤ rxDataCount heldFull.cfg heldFull.blk.mLen ∧
      storeRead (251 : Byte).toNat heldFull.blk.data = some 0x10 ∧
      storeRead ((251 : Byte).toNat + 1) heldFull.blk.data = some 0x20 ∧
      storeRead ((251 : Byte).toNat + 2) heldFull.blk.data = some 0x30 ∧
      storeRead ((251 : Byte).toNat + 3) heldFull.blk.data = some 0xFE := by decide
theorem witness_short_fields :
    let s := holding heldFD
    s.blk.held = true ∧ (5 : Byte).toNat + fieldWidth .u32 ≤ 255 ∧ (15 : Byte).toNat < s.cfg.nslots ∧
      rxDataCount s.cfg s.blk.mLen + 1 = (5 : Byte).toNat + fieldWidth .u32 := by decide

/-- A field one byte past the buffer with a slot that exists, and the first slot that does not with a field that
fits. -/
theorem witness_unfitting_fields :
    255 < (252 : Byte).toNat + fieldWidth .u32 ∧ (15 : Byte).toNat < State.reset.cfg.nslots ∧
      255 < (255 : Byte).toNat + fieldWidth .u8 ∧
      (251 : Byte).toNat + fieldWidth .f32 ≤ 255 ∧ State.reset.cfg.nslots ≤ (16 : Byte).toNat := by decide

/-- The held frame FD under a table with a well-formed entry for its object. -/
def dispatchable : State := { holding heldFD with cfg := withEntry 0x77 [0x10000101, 0x20000707] }

theorem witness_dispatch_unknown :
    let s := { holding heldFD with cfg := withEntry 0x78 [0] }
    s.blk.held = true ∧ ∀ e ∈ s.cfg.layouts, e.oid ≠ s.blk.mOid := by decide
theorem witness_dispatch_in_order :
    dispatchable.blk.held = true ∧ configRefusal dispatchable.cfg = none ∧
      { oid := 0x77, descs := [0x10000101, 0x20000707] } ∈ dispatchable.cfg.layouts ∧
      (0x77 : Word) = dispatchable.blk.mOid ∧
      List.Forall₂ (fun d i => decode dispatchable.cfg (.descriptor d) = .ok i)
        [0x10000101, 0x20000707] [.extI8 1 1, .extU16 7 7] :=
  ⟨rfl, by decide, by decide, rfl, .cons (by decide) (.cons (by decide) .nil)⟩
theorem witness_dispatch_completes :
    dispatchable.blk.held = true ∧ configRefusal dispatchable.cfg = none ∧
      Written dispatchable.blk.data (rxDataCount dispatchable.cfg dispatchable.blk.mLen) := by
  refine ⟨rfl, by decide, ?_⟩
  change ∀ i, i < 8 → (storeRead i heldFD.data).isSome = true
  decide
theorem witness_no_change_reported :
    ∃ t, exec .dispatch { dispatchable with blk := { heldFD with telem := [(1, 0xFFFFFFFF)] } } = .next t ∧
      t.out.dispChanged = false := ⟨_, rfl, rfl⟩
theorem witness_dispatch_goes_on : ∃ t, exec .dispatch dispatchable = .next t := ⟨_, rfl⟩

/-- The reset state satisfies the invariants, and a frame can begin in it. -/
theorem reset_sound : Sound State.reset :=
  ⟨by decide, ⟨rfl, rfl, rfl, rfl⟩, trivial, fun h => absurd h (by decide)⟩
theorem reset_crcFolded : CrcFolded State.reset :=
  ⟨fun h => absurd rfl h, fun h => absurd h (by decide)⟩
theorem witness_sound_step : Sound (offered (.action 0x13C)) ∧ ∃ t, step (offered (.action 0x13C)) = .next t :=
  ⟨reset_sound, _, rfl⟩
theorem witness_crcFolded_step :
    Sound (offered (.action 0x13C)) ∧ CrcFolded (offered (.action 0x13C)) ∧
      ∃ t, step (offered (.action 0x13C)) = .next t := ⟨reset_sound, reset_crcFolded, _, rfl⟩
/-- A held message that is sound: F1 of 95_test_vectors.md. -/
theorem witness_sound_held :
    Sound (holding { mid .idle 0x6B 0 0x20 8 0x12345678 with mCrc := 0x6B, held := true }) :=
  ⟨by decide, ⟨rfl, rfl, rfl, rfl⟩, trivial, fun _ =>
    ⟨rfl, ⟨rfl, by decide⟩, by decide, fun _ => rfl, fun i h => absurd h (Nat.not_lt_zero i), rfl⟩⟩

theorem witness_payload_written :
    ∃ t, step { offered (.action 0x17F) with blk := mid .readingData 0 254 0x20 263 0 } = .next t ∧
      t.blk.data ≠ [] := ⟨_, rfl, by decide⟩
theorem witness_payload_emptied :
    ∃ t, step { offered (.action 0x400) with blk := heldFD } = .next t ∧ t.blk.data ≠ heldFD.data :=
  ⟨_, rfl, by decide⟩
theorem witness_slot_written :
    ∃ t, step { dispatchable with script := [.action 0x300] } = .next t ∧ t.blk.telem ≠ [] :=
  ⟨_, rfl, by decide⟩
theorem witness_slots_emptied :
    ∃ t, step { offered (.action 0x400) with blk := { heldFD with telem := [(0, 1)] } } = .next t ∧
      t.blk.telem ≠ [(0, 1)] := ⟨_, rfl, by decide⟩
theorem witness_any_step : ∃ t, step State.reset = .next t := ⟨_, rfl⟩
theorem witness_verdict_valid :
    ∃ t, step { offered (.action 0x16B) with blk := mid .awaitCrc 0x6B 0 0x20 8 1 } = .next t ∧
      t.out.verdict ≠ .none ∧ t.blk.held = true := ⟨_, rfl, by decide, by decide⟩
theorem witness_verdict_invalid :
    ∃ t, step { offered (.action 0x16A) with blk := mid .awaitCrc 0x6B 0 0x20 8 1 } = .next t ∧
      t.out.verdict ≠ .none ∧ t.blk.held = false := ⟨_, rfl, by decide, by decide⟩
theorem witness_hold_ends :
    ∃ t, step { dispatchable with script := [.action 0x300] } = .next t ∧ dispatchable.blk.held = true ∧
      t.blk.held = false := ⟨_, rfl, by decide, by decide⟩
theorem witness_configuration_changes :
    ∃ t, step { offered (.action 0x400) with hostCfg := dataOnly } = .next t ∧ t.cfg ≠ Config.default :=
  ⟨_, rfl, by decide⟩
theorem witness_outside_reads :
    (holding heldFD).blk.held = true ∧ State.reset.blk.held = false ∧
      (mid .awaitCrc 0 0 0x20 8 1).held = false ∧ 15 < State.reset.cfg.nslots ∧
      storeRead 15 State.reset.blk.telem = none ∧
      storeRead 15 (holding { heldFD with telem := [(15, 1)] }).blk.telem = some 1 := by decide
/-- The last data byte of the frame FD and the first cell after it; the last cell of the buffer. -/
theorem witness_outside_payload_reads :
    (holding heldFD).blk.held = true ∧ 7 < rxDataCount Config.default heldFD.mLen ∧
      storeRead 7 heldFD.data = some 0x80 ∧ rxDataCount Config.default heldFD.mLen ≤ 8 ∧
      heldFull.blk.held = true ∧ 254 < rxDataCount heldFull.cfg heldFull.blk.mLen ∧ 254 < 255 ∧
      storeRead 254 heldFull.blk.data = some 0xFE := by decide
theorem test_outside_reads_of_the_held_frame :
    readMsgReg .crc 0 (holding heldFD) = 0x03 ∧ readMsgReg .sync 1 (holding heldFD) = 0x3C ∧
      readPayload 7 0 (holding heldFD) = .ok 0x80 := by decide

theorem witness_bytes_before_sync :
    State.reset.blk.held = false ∧ State.reset.blk.st = .idle ∧
      (∀ b ∈ [(0x3B : Byte), 0x3D, 0x00], b ≠ State.reset.cfg.syncVal) ∧ State.reset.out = Outputs.idle := by
  decide
theorem witness_header_frame : State.reset.blk.held = false ∧ State.reset.blk.st = .idle := by decide
theorem witness_payload_frame_counted :
    let s := State.reset
    s.blk.held = false ∧ s.blk.st = .idle ∧
      (s.cfg.lenCountsInstance = true → (List.replicate 253 (0 : Byte)).length ≤ 253) ∧
      (s.cfg.lenCountsInstance = false →
        1 ≤ (List.replicate 253 (0 : Byte)).length ∧ (List.replicate 253 (0 : Byte)).length ≤ 255) := by
  rw [List.length_replicate]; decide
theorem witness_payload_frame_data_only :
    let s := { State.reset with cfg := dataOnly }
    s.blk.held = false ∧ s.blk.st = .idle ∧
      (s.cfg.lenCountsInstance = true → (List.replicate 255 (0 : Byte)).length ≤ 253) ∧
      (s.cfg.lenCountsInstance = false →
        1 ≤ (List.replicate 255 (0 : Byte)).length ∧ (List.replicate 255 (0 : Byte)).length ≤ 255) := by
  rw [List.length_replicate]; decide
theorem witness_payload_frame_one_byte :
    let s := { State.reset with cfg := dataOnly }
    s.blk.held = false ∧ s.blk.st = .idle ∧ s.cfg.lenCountsInstance = false ∧
      1 ≤ [(0 : Byte)].length ∧ [(0 : Byte)].length ≤ 255 := by decide
/-- The type nibble changed, and every other byte as in a right frame. -/
theorem witness_corrupted_type :
    let right := withCrc (headerBytes State.reset.cfg 0x0 0x12345678) false
    let crc := crcFold 0 (headerBytes State.reset.cfg 0x0 0x12345678)
    State.reset.blk.held = false ∧ State.reset.blk.st = .idle ∧ ∀ j, j < 9 →
      ((headerBytes State.reset.cfg 0x1 0x12345678 ++ [crc])[j]? = right[j]? ↔ j ≠ 1) := by
  intro right crc
  refine ⟨rfl, rfl, fun j hj => ?_⟩
  simp only [right, crc, withCrc, Bool.false_eq_true, if_false]
  generalize crcFold 0 (headerBytes State.reset.cfg 0x0 0x12345678) = c
  interval_cases j <;> simp [headerBytes, typeByte, State.reset, Config.default]
/-- The CRC byte changed. -/
theorem witness_corrupted_crc :
    let right := withCrc (headerBytes State.reset.cfg 0x0 0x12345678) false
    let crc := crcFold 0 (headerBytes State.reset.cfg 0x0 0x12345678)
    State.reset.blk.held = false ∧ State.reset.blk.st = .idle ∧ ∀ j, j < 9 →
      ((headerBytes State.reset.cfg 0x0 0x12345678 ++ [crc + 1])[j]? = right[j]? ↔ j ≠ 8) := by
  intro right crc
  refine ⟨rfl, rfl, fun j hj => ?_⟩
  simp only [right, crc, withCrc, Bool.false_eq_true, if_false]
  generalize crcFold 0 (headerBytes State.reset.cfg 0x0 0x12345678) = c
  interval_cases j <;> simp [headerBytes]

/-- A body with one byte replaced, under the right body's CRC byte, differs from the right frame there and nowhere
else. -/
theorem differs_only_at {body body' : List Byte} {k : Nat} {x y : Byte} (hs : body' = body.set k x)
    (hk : body[k]? = some y) (hx : x ≠ y) (j : Nat) :
    (body' ++ [crcFold 0 body])[j]? = (withCrc body false)[j]? ↔ j ≠ k := by
  obtain ⟨h, rfl⟩ := List.getElem?_eq_some_iff.mp hk
  simp only [withCrc, Bool.false_eq_true, if_false, hs, List.getElem?_append, List.length_set]
  split
  · rw [List.getElem?_set]
    split
    · subst_vars
      simpa [h] using hx
    · rename_i hkj
      exact ⟨fun _ => Ne.symm hkj, fun _ => rfl⟩
  · exact ⟨fun _ => by omega, fun _ => rfl⟩
/-- A right body with another CRC byte differs from the right frame in that byte and nowhere else. -/
theorem differs_only_in_crc {body : List Byte} {x : Byte} (hx : x ≠ crcFold 0 body) (j : Nat)
    (hj : j < body.length + 1) : (body ++ [x])[j]? = (withCrc body false)[j]? ↔ j ≠ body.length := by
  simp only [withCrc, Bool.false_eq_true, if_false, List.getElem?_append]
  split
  · exact ⟨fun _ => by omega, fun _ => rfl⟩
  · obtain rfl : j = body.length := by omega
    simpa using hx
/-- An object id byte changed, the first and the last. -/
theorem witness_corrupted_object_id :
    let body := headerBytes State.reset.cfg 0x0 0x12345678
    State.reset.blk.held = false ∧ State.reset.blk.st = .idle ∧ ∀ j, j < 9 →
      ((headerBytes State.reset.cfg 0x0 0x12345679 ++ [crcFold 0 body])[j]? = (withCrc body false)[j]? ↔ j ≠ 4) ∧
      ((headerBytes State.reset.cfg 0x0 0x92345678 ++ [crcFold 0 body])[j]? = (withCrc body false)[j]? ↔ j ≠ 7) :=
  ⟨rfl, rfl, fun j _ =>
    ⟨differs_only_at (x := 0x79) (y := 0x78) (by decide) (by decide) (by decide) j,
      differs_only_at (x := 0x92) (y := 0x12) (by decide) (by decide) (by decide) j⟩⟩

/-- The frame E9 of 95_test_vectors.md, of length 9, before its CRC byte. -/
theorem test_length_nine_frame :
    longFrameBytes Config.default 0x0 9 0x55 0xA1A0 [] =
      [0x3C, 0x20, 0x09, 0x00, 0x55, 0x00, 0x00, 0x00, 0xA0, 0xA1] := by decide
theorem witness_length_nine :
    State.reset.blk.held = false ∧ State.reset.blk.st = .idle ∧ State.reset.cfg.lenCountsInstance = true := by
  decide

/-- A frame with an instance id and one data byte, each kind of byte changed: the type nibble, an object id byte, an
instance id byte, the data byte, the CRC byte. -/
theorem witness_corrupted_payload_frame :
    let s := State.reset
    let body := longFrameBytes s.cfg 0x0 11 0x55 0xA1A0 [0x7F]
    let crc := crcFold 0 body
    s.blk.held = false ∧ s.blk.st = .idle ∧ 8 < (11 : Half).toNat ∧ (11 : Half).toNat ≤ 263 ∧
      [(0x7F : Byte)].length = (if s.cfg.lenCountsInstance then (11 : Half).toNat - 10 else (11 : Half).toNat - 8) ∧
      ∀ j, j < 12 →
        ((longFrameBytes s.cfg 0xF 11 0x55 0xA1A0 [0x7F] ++ [crc])[j]? = (withCrc body false)[j]? ↔ j ≠ 1) ∧
        ((longFrameBytes s.cfg 0x0 11 0x54 0xA1A0 [0x7F] ++ [crc])[j]? = (withCrc body false)[j]? ↔ j ≠ 4) ∧
        ((longFrameBytes s.cfg 0x0 11 0x55 0xA1A1 [0x7F] ++ [crc])[j]? = (withCrc body false)[j]? ↔ j ≠ 8) ∧
        ((longFrameBytes s.cfg 0x0 11 0x55 0xA1A0 [0x3C] ++ [crc])[j]? = (withCrc body false)[j]? ↔ j ≠ 10) ∧
        ((body ++ [crc + 1])[j]? = (withCrc body false)[j]? ↔ j ≠ 11) := by
  intro s body crc
  refine ⟨rfl, rfl, by decide, by decide, rfl, fun j hj => ?_⟩
  exact ⟨differs_only_at (x := 0x2F) (y := 0x20) (by decide) (by decide) (by decide) j,
    differs_only_at (x := 0x54) (y := 0x55) (by decide) (by decide) (by decide) j,
    differs_only_at (x := 0xA1) (y := 0xA0) (by decide) (by decide) (by decide) j,
    differs_only_at (x := 0x3C) (y := 0x7F) (by decide) (by decide) (by decide) j,
    differs_only_in_crc (by simp [crc]) j hj⟩
/-- The longest frame under the other reading of the length field, its last data byte changed. -/
theorem witness_corrupted_longest_frame :
    let s := { State.reset with cfg := dataOnly }
    let data := List.replicate 255 (0 : Byte)
    let body := longFrameBytes s.cfg 0x0 263 0x55 0xA1A0 data
    s.blk.held = false ∧ s.blk.st = .idle ∧ (263 : Half).toNat = 263 ∧
      data.length = (if s.cfg.lenCountsInstance then (263 : Half).toNat - 10 else (263 : Half).toNat - 8) ∧
      (data.set 254 1).length = data.length ∧ ∀ j, j < 266 →
        ((longFrameBytes s.cfg 0x0 263 0x55 0xA1A0 (data.set 254 1) ++ [crcFold 0 body])[j]? =
          (withCrc body false)[j]? ↔ j ≠ 264) := by
  intro s data body
  have hl : data.length = 255 := List.length_replicate
  have hd : data[254]? = some 0 := by rw [List.getElem?_replicate]; rfl
  refine ⟨rfl, rfl, rfl, hl.trans rfl, List.length_set, fun j _ => ?_⟩
  clear_value data
  exact differs_only_at (x := 1) (y := 0) (by simp [body, longFrameBytes])
    (by simpa [body, longFrameBytes] using hd) (by decide) j
/-- A frame of length 9, its second instance id byte changed. -/
theorem witness_corrupted_length_nine :
    let s := State.reset
    let body := longFrameBytes s.cfg 0x0 9 0x55 0xA1A0 []
    s.blk.held = false ∧ s.blk.st = .idle ∧ 8 < (9 : Half).toNat ∧
      ([] : List Byte).length = (if s.cfg.lenCountsInstance then (9 : Half).toNat - 10 else (9 : Half).toNat - 8) ∧
      ∀ j, j < 11 →
        ((longFrameBytes s.cfg 0x0 9 0x55 0xA2A0 [] ++ [crcFold 0 body])[j]? = (withCrc body false)[j]? ↔ j ≠ 9) :=
  ⟨rfl, rfl, by decide, rfl, fun j _ =>
    differs_only_at (x := 0xA2) (y := 0xA1) (by decide) (by decide) (by decide) j⟩

end Sys2Proof.Tests
end

/-! PROOF. 10_state.md R33: which steps drive `verdict`, and to what. -/

namespace Sys2Proof.Machine

/-! ### The two verdicts of R136 -/

@[simp] theorem State.treatMessage_out (s : State) (k : MsgKind) : (s.treatMessage k).out = s.out := by
  cases k <;> rfl

@[simp] theorem State.treatMessage_st (s : State) (k : MsgKind) : (s.treatMessage k).blk.st = s.blk.st := by
  cases k <;> rfl

@[simp] theorem State.treatMessage_held (s : State) (k : MsgKind) :
    (s.treatMessage k).blk.held = s.blk.held := by
  cases k <;> rfl

@[simp] theorem State.acceptFrame_out (s : State) (b : Byte) :
    (s.acceptFrame b).out = verdictOutputs .valid := by
  simp [State.acceptFrame]

@[simp] theorem State.acceptFrame_st (s : State) (b : Byte) : (s.acceptFrame b).blk.st = .idle := by
  simp [State.acceptFrame]

@[simp] theorem State.acceptFrame_held (s : State) (b : Byte) : (s.acceptFrame b).blk.held = true := by
  simp [State.acceptFrame]

@[simp] theorem State.rejectFrame_out (s : State) (b : Byte) :
    (s.rejectFrame b).out = verdictOutputs .invalid := rfl

@[simp] theorem State.rejectFrame_st (s : State) (b : Byte) : (s.rejectFrame b).blk.st = .idle := rfl

@[simp] theorem State.rejectFrame_held (s : State) (b : Byte) : (s.rejectFrame b).blk.held = s.blk.held := rfl

/-! ### The codec gives no verdict before the CRC byte -/

theorem takeLength_out (s : State) (b : Byte) : (s.takeLength b).out = verdictOutputs .none := by
  rcases takeLength_cases s b with ⟨-, e⟩ | ⟨-, -, e⟩ | ⟨-, -, e⟩ <;> rw [e] <;> rfl

theorem takeData_out {s t : State} {b : Byte} (h : s.takeData b = .next t) :
    t.out = verdictOutputs .none := by
  obtain ⟨-, rfl⟩ := takeData_eq_next_iff.mp h
  rfl

/-- RX_BYTE drives NONE and nothing else, except in AwaitCrc, where it accepts or rejects the frame. -/
theorem execRxByte_out_cases {b : Byte} {s t : State} (h : execRxByte b s = .next t) :
    t.out = verdictOutputs .none ∨
      (s.blk.st = .awaitCrc ∧ s.blk.held = false ∧ (t = s.acceptFrame b ∨ t = s.rejectFrame b)) := by
  obtain ⟨hfree, hc⟩ := execRxByte_next_cases h
  rcases hc with ⟨-, -, rfl⟩ | ⟨-, -, rfl⟩ | ⟨-, -, rfl⟩ | ⟨-, -, rfl⟩ | ⟨-, rfl⟩ | ⟨-, rfl⟩ | ⟨-, rfl⟩ |
    ⟨-, hdata⟩ | ⟨hcrc, -, ht⟩ | ⟨hcrc, -, ht⟩
  · exact .inl rfl
  · exact .inl rfl
  · exact .inl rfl
  · exact .inl rfl
  · exact .inl (takeLength_out s b)
  · exact .inl rfl
  · exact .inl rfl
  · exact .inl (takeData_out hdata)
  · exact .inr ⟨hcrc, hfree, .inl ht⟩
  · exact .inr ⟨hcrc, hfree, .inr ht⟩

/-! ### The dispatcher drives no verdict -/

theorem extractField_verdict {s t : State} {k : FieldKind} {o d : Byte} (h : s.extractField k o d = .next t) :
    t.out.verdict = s.out.verdict := by
  rcases extractField_next_cases h with ⟨-, raw, -, rfl⟩ | ⟨-, rfl⟩ <;> rfl

theorem extractAll_verdict {ds : List Word} {s t : State} (h : extractAll ds s = .next t) :
    t.out.verdict = s.out.verdict :=
  extractAll_induction (P := fun u => u.out.verdict = s.out.verdict)
    (fun _ _ _ _ _ hu _ he => (extractField_verdict he).trans hu) rfl h

theorem extractAlone_verdict {s t : State} {k : FieldKind} {o d : Byte} (h : s.extractAlone k o d = .next t) :
    t.out.verdict = .none := by
  obtain ⟨-, -, he⟩ := extractAlone_next h
  exact (extractField_verdict he).trans rfl

theorem execDispatch_verdict {s t : State} (h : execDispatch s = .next t) : t.out.verdict = .none := by
  obtain ⟨-, ⟨-, rfl⟩ | ⟨descs, u, -, hu, rfl⟩⟩ := execDispatch_next_cases h
  · rfl
  · exact (extractAll_verdict hu).trans rfl

/-! ### Every instruction -/

/-- R33: an instruction that goes on gives the verdict NONE, or it takes the CRC byte of a frame while no message is
held. -/
theorem exec_verdict_cases {i : Instr} {s t : State} (h : exec i s = .next t) :
    t.out.verdict = .none ∨
      (s.blk.st = .awaitCrc ∧ s.blk.held = false ∧ ∃ b, t = s.acceptFrame b ∨ t = s.rejectFrame b) := by
  rcases exec_next_cases h with rfl | ⟨y, rfl⟩ | ⟨b, hb⟩ | he | ⟨-, hr⟩ | ⟨-, hd⟩ | ⟨k, o, d, hf⟩
  · exact .inl rfl
  · exact .inl rfl
  · rcases execRxByte_out_cases hb with hout | ⟨hcrc, hfree, ht⟩
    · exact .inl (congrArg Outputs.verdict hout)
    · exact .inr ⟨hcrc, hfree, b, ht⟩
  · obtain ⟨-, rfl⟩ := execRxError_next_iff.mp he
    exact .inl rfl
  · obtain ⟨-, rfl⟩ := execReset_next_iff.mp hr
    exact .inl rfl
  · exact .inl (execDispatch_verdict hd)
  · exact .inl (extractAlone_verdict hf)

/-- Settles O47: of all instructions only the CRC byte's gives a verdict (`exec_verdict_cases`), and there `acceptFrame`
begins the hold while `rejectFrame` leaves the block free. -/
theorem verdictOnlyAtTheCrcByte : Obligations.VerdictOnlyAtTheCrcByte := by
  intro s t h hv
  obtain ⟨-, i, u, -, hu, rfl⟩ := step_next_cases h
  rcases exec_verdict_cases hu with hnone | ⟨hcrc, hfree, b, rfl | rfl⟩
  · exact absurd hnone hv
  · exact ⟨hcrc, hfree, by simp, by simp⟩
  · exact ⟨hcrc, hfree, rfl, by simp [hfree]⟩

end Sys2Proof.Machine

/-! PROOF. MemWrite and MemRead (20_memory.md R52 to R56), and which steps write the payload buffer (R62). -/

namespace Sys2Proof.Machine

/-! ### Little-endian reads -/

/-- A byte below a value that is `n` bits wide, as the read of R53 puts them together. -/
theorem zeroExtend_append_byte {n : Nat} (hi : BitVec n) (lo : Byte) :
    (hi ++ lo).zeroExtend 32 = lo.zeroExtend 32 ||| hi.zeroExtend 32 <<< 8 := by
  apply BitVec.eq_of_getLsbD_eq
  intro i hlt
  simp only [BitVec.zeroExtend, BitVec.getLsbD_setWidth, BitVec.getLsbD_append, BitVec.getLsbD_or,
    BitVec.getLsbD_shiftLeft, hlt, decide_true, Bool.true_and]
  by_cases h : i < 8
  · simp [h]
  · have hlo : lo.getLsbD i = false := BitVec.getLsbD_of_ge lo i (by omega)
    have hshift : i - 8 < 32 := by omega
    simp [h, hlo, hshift]

/-- R53, R54: one more cell below those already read. -/
theorem readLE_append_byte {m : List Host.Cell} {i k n : Nat} {hi : BitVec n} {lo : Byte}
    (hlo : storeRead i m = some lo) (hhi : readLE m (i + 1) k = some (hi.zeroExtend 32)) :
    readLE m i (k + 1) = some ((hi ++ lo).zeroExtend 32) := by
  rw [zeroExtend_append_byte]
  simp [readLE, hlo, hhi]

section Cells

variable {m : List Host.Cell} {i : Nat} {b₀ b₁ b₂ b₃ : Byte}

theorem readLE_byte (h₀ : storeRead i m = some b₀) : readLE m i 1 = some (b₀.zeroExtend 32) := by
  simp [readLE, h₀]

theorem readLE_half (h₀ : storeRead i m = some b₀) (h₁ : storeRead (i + 1) m = some b₁) :
    readLE m i 2 = some ((b₁ ++ b₀).zeroExtend 32) :=
  readLE_append_byte h₀ (readLE_byte h₁)

theorem readLE_word (h₀ : storeRead i m = some b₀) (h₁ : storeRead (i + 1) m = some b₁)
    (h₂ : storeRead (i + 2) m = some b₂) (h₃ : storeRead (i + 3) m = some b₃) :
    readLE m i 4 = some (b₃ ++ b₂ ++ b₁ ++ b₀) :=
  (readLE_append_byte h₀ (readLE_append_byte h₁ (readLE_half h₂ h₃))).trans
    (congrArg some (BitVec.setWidth_eq _))

end Cells

/-- A read that answers has every cell it covers written. -/
theorem exists_cell_of_readLE {m : List Host.Cell} {i n k : Nat} {v : Word} (h : readLE m i n = some v)
    (hik : i ≤ k) (hkn : k < i + n) : ∃ b, storeRead k m = some b := by
  induction n generalizing i v with
  | zero => omega
  | succ n ih =>
    rw [readLE] at h
    split at h
    · rename_i b rest hb hrest
      obtain rfl | hlt := Nat.eq_or_lt_of_le hik
      · exact ⟨b, hb⟩
      · exact ih hrest hlt (by omega)
    · cases h

/-- What a 1-byte read answers (R53). -/
theorem memRead_byte_iff {m : List Host.Cell} {i : Nat} {v : Word} :
    memRead m i 1 = .ok v ↔ i + 1 ≤ 255 ∧ ∃ b, storeRead i m = some b ∧ v = b.zeroExtend 32 := by
  rw [memRead_eq_ok_iff]
  refine and_congr_right fun _ => ⟨fun h => ?_, ?_⟩
  · obtain ⟨b, hb⟩ := exists_cell_of_readLE (k := i) h (by omega) (by omega)
    exact ⟨b, hb, Option.some.inj (h.symm.trans (readLE_byte hb))⟩
  · rintro ⟨b, hb, rfl⟩
    exact readLE_byte hb

/-- What a 2-byte read answers (R53). -/
theorem memRead_half_iff {m : List Host.Cell} {i : Nat} {v : Word} :
    memRead m i 2 = .ok v ↔ i + 2 ≤ 255 ∧ ∃ b₀ b₁, storeRead i m = some b₀ ∧ storeRead (i + 1) m = some b₁ ∧
      v = (b₁ ++ b₀).zeroExtend 32 := by
  rw [memRead_eq_ok_iff]
  refine and_congr_right fun _ => ⟨fun h => ?_, ?_⟩
  · obtain ⟨b₀, h₀⟩ := exists_cell_of_readLE (k := i) h (by omega) (by omega)
    obtain ⟨b₁, h₁⟩ := exists_cell_of_readLE (k := i + 1) h (by omega) (by omega)
    exact ⟨b₀, b₁, h₀, h₁, Option.some.inj (h.symm.trans (readLE_half h₀ h₁))⟩
  · rintro ⟨b₀, b₁, h₀, h₁, rfl⟩
    exact readLE_half h₀ h₁

/-- What a 4-byte read answers (R53). -/
theorem memRead_word_iff {m : List Host.Cell} {i : Nat} {v : Word} :
    memRead m i 4 = .ok v ↔ i + 4 ≤ 255 ∧ ∃ b₀ b₁ b₂ b₃, storeRead i m = some b₀ ∧
      storeRead (i + 1) m = some b₁ ∧ storeRead (i + 2) m = some b₂ ∧ storeRead (i + 3) m = some b₃ ∧
      v = b₃ ++ b₂ ++ b₁ ++ b₀ := by
  rw [memRead_eq_ok_iff]
  refine and_congr_right fun _ => ⟨fun h => ?_, ?_⟩
  · obtain ⟨b₀, h₀⟩ := exists_cell_of_readLE (k := i) h (by omega) (by omega)
    obtain ⟨b₁, h₁⟩ := exists_cell_of_readLE (k := i + 1) h (by omega) (by omega)
    obtain ⟨b₂, h₂⟩ := exists_cell_of_readLE (k := i + 2) h (by omega) (by omega)
    obtain ⟨b₃, h₃⟩ := exists_cell_of_readLE (k := i + 3) h (by omega) (by omega)
    exact ⟨b₀, b₁, b₂, b₃, h₀, h₁, h₂, h₃, Option.some.inj (h.symm.trans (readLE_word h₀ h₁ h₂ h₃))⟩
  · rintro ⟨b₀, b₁, b₂, b₃, h₀, h₁, h₂, h₃, rfl⟩
    exact readLE_word h₀ h₁ h₂ h₃

/-- R53: one unwritten cell is enough for the fault, wherever in the read it lies. -/
theorem memRead_unwritten {m : List Host.Cell} {i n k : Nat} (hin : i + n ≤ 255) (hik : i ≤ k) (hkn : k < i + n)
    (hk : storeRead k m = none) : memRead m i n = .error .unwrittenPayload := by
  have hnone : readLE m i n = none := by
    refine Option.eq_none_iff_forall_ne_some.mpr fun v hv => ?_
    obtain ⟨b, hb⟩ := exists_cell_of_readLE hv hik hkn
    simp [hk] at hb
  simp [memRead, Config.payloadCap, hin, hnone]

/-- Settles O8: MemWrite is `storeWrite` below the capacity (`memWrite_eq_some_iff`), and the codec turns its refusal
into the fault (`takeData_eq_fault_iff`). -/
theorem memWriteWritesOneCellInBounds : Obligations.MemWriteWritesOneCellInBounds := by
  intro m i v
  constructor
  · intro hi
    exact ⟨storeWrite i v m, memWrite_eq_some_iff.mpr ⟨hi, rfl⟩, storeRead_storeWrite_same i v m,
      fun j hj => storeRead_storeWrite_other hj v m⟩
  · intro hi
    have hcap : ¬ i < Config.payloadCap := Nat.not_lt.mpr hi
    refine ⟨if_neg hcap, fun s hfree hst hcnt => ?_⟩
    have hover : s.takeData v = .fault .payloadOverrun := takeData_eq_fault_iff.mpr ⟨hcnt ▸ hcap, rfl⟩
    simp [exec, execRxByte, State.whenFree, hfree, hst, hover]

/-- Settles O9: each width reads its cells and no others (`memRead_byte_iff` and its two companions). -/
theorem memReadIsLittleEndian : Obligations.MemReadIsLittleEndian := by
  intro m
  constructor
  · intro i b₀ b₁ b₂ b₃ h₀
    exact ⟨fun hi => memRead_byte_iff.mpr ⟨hi, b₀, h₀, rfl⟩,
      fun hi h₁ => memRead_half_iff.mpr ⟨hi, b₀, b₁, h₀, h₁, rfl⟩,
      fun hi h₁ h₂ h₃ => memRead_word_iff.mpr ⟨hi, b₀, b₁, b₂, b₃, h₀, h₁, h₂, h₃, rfl⟩⟩
  · rintro j n - hjn ⟨k, hjk, hkn, hk⟩
    exact memRead_unwritten hjn hjk hkn hk

/-- Settles O10: both reads are spelled by the same cells, and the narrower one's are the wider one's lower half, or its
upper byte. -/
theorem overlappingReadsSeeOneByteArray : Obligations.OverlappingReadsSeeOneByteArray := by
  intro m k
  constructor
  · intro v hv
    obtain ⟨hk, b₀, b₁, b₂, b₃, h₀, h₁, -, -, rfl⟩ := memRead_word_iff.mp hv
    have hlow : (b₃ ++ b₂ ++ b₁ ++ b₀).truncate 16 = b₁ ++ b₀ := by
      calc (b₃ ++ b₂ ++ b₁ ++ b₀).truncate 16
          = (b₃ ++ b₂ ++ b₁).setWidth 8 ++ b₀.setWidth 8 := BitVec.setWidth_append_of_eq rfl
        _ = b₁ ++ b₀ := by rw [BitVec.setWidth_append_eq_right, BitVec.setWidth_eq]
    exact memRead_half_iff.mpr ⟨by omega, b₀, b₁, h₀, h₁, by rw [hlow]⟩
  · intro v hv
    obtain ⟨hk, b₀, b₁, -, h₁, rfl⟩ := memRead_half_iff.mp hv
    have hupper : ((b₁ ++ b₀).zeroExtend 32).extractLsb' 8 8 = b₁ :=
      (BitVec.extractLsb'_setWidth_of_le (by decide)).trans (extractLsb'_append_high b₁ b₀)
    exact memRead_byte_iff.mpr ⟨by omega, b₁, h₁, by rw [hupper]⟩

/-! ### Which steps write the payload buffer -/

@[simp] theorem takeLength_data (s : State) (b : Byte) : (s.takeLength b).blk.data = s.blk.data := by
  rcases takeLength_cases s b with ⟨-, e⟩ | ⟨-, -, e⟩ | ⟨-, -, e⟩ <;> rw [e] <;> rfl

@[simp] theorem takeObjectId_data (s : State) (b : Byte) : (s.takeObjectId b).blk.data = s.blk.data := by
  rcases takeObjectId_cases s b with ⟨-, e⟩ | ⟨-, e⟩ <;> rw [e] <;> rfl

@[simp] theorem takeInstanceId_data (s : State) (b : Byte) : (s.takeInstanceId b).blk.data = s.blk.data := by
  rcases takeInstanceId_cases s b with ⟨-, e⟩ | ⟨-, e⟩ <;> rw [e] <;> rfl

@[simp] theorem State.treatMessage_data (s : State) (k : MsgKind) :
    (s.treatMessage k).blk.data = s.blk.data := by
  cases k <;> rfl

@[simp] theorem State.acceptFrame_data (s : State) (b : Byte) : (s.acceptFrame b).blk.data = s.blk.data := by
  simp [State.acceptFrame]

/-- R135: a data byte is written at `cnt`, whether or not it is the last. -/
theorem takeData_data {s t : State} {b : Byte} (h : s.takeData b = .next t) :
    t.blk.data = storeWrite s.blk.cnt.toNat b s.blk.data := by
  obtain ⟨-, rfl⟩ := takeData_eq_next_iff.mp h
  rw [State.emitVerdict_blk, State.setBlk_blk]
  split_ifs <;> rfl

/-- R62: RX_BYTE leaves the payload buffer alone, except in ReadingData, where it writes cell `cnt`. -/
theorem execRxByte_data_cases {b : Byte} {s t : State} (h : execRxByte b s = .next t) :
    t.blk.data = s.blk.data ∨
      (s.blk.st = .readingData ∧ s.blk.held = false ∧ s.blk.cnt.toNat < 255 ∧
        t.blk.data = storeWrite s.blk.cnt.toNat b s.blk.data) := by
  obtain ⟨hfree, hc⟩ := execRxByte_next_cases h
  rcases hc with ⟨-, -, rfl⟩ | ⟨-, -, rfl⟩ | ⟨-, -, rfl⟩ | ⟨-, -, rfl⟩ | ⟨-, rfl⟩ | ⟨-, rfl⟩ | ⟨-, rfl⟩ |
    ⟨hst, hdata⟩ | ⟨-, -, rfl⟩ | ⟨-, -, rfl⟩
  · exact .inl rfl
  · exact .inl rfl
  · exact .inl rfl
  · exact .inl rfl
  · exact .inl (takeLength_data s b)
  · exact .inl (takeObjectId_data s b)
  · exact .inl (takeInstanceId_data s b)
  · exact .inr ⟨hst, hfree, (takeData_eq_next_iff.mp hdata).1, takeData_data hdata⟩
  · exact .inl (State.acceptFrame_data s b)
  · exact .inl rfl

theorem ExtractFrame.data {s t : State} (h : ExtractFrame s t) : t.blk.data = s.blk.data := by
  rw [h.telem]

theorem execDispatch_data {s t : State} (h : execDispatch s = .next t) : t.blk.data = s.blk.data := by
  obtain ⟨-, ⟨-, rfl⟩ | ⟨descs, u, -, hu, rfl⟩⟩ := execDispatch_next_cases h
  · rfl
  · exact (extractAll_frame hu).data

/-- R62, R230: an instruction leaves the payload buffer alone, writes cell `cnt` in ReadingData, or is RESET. -/
theorem exec_data_cases {i : Instr} {s t : State} (h : exec i s = .next t) :
    t.blk.data = s.blk.data ∨
      (s.blk.st = .readingData ∧ s.blk.held = false ∧ s.blk.cnt.toNat < 255 ∧
        ∃ b, t.blk.data = storeWrite s.blk.cnt.toNat b s.blk.data) ∨
      t = s.doReset := by
  rcases exec_next_cases h with rfl | ⟨y, rfl⟩ | ⟨b, hb⟩ | he | ⟨-, hr⟩ | ⟨-, hd⟩ | ⟨k, o, d, hf⟩
  · exact .inl rfl
  · exact .inl rfl
  · rcases execRxByte_data_cases hb with hsame | ⟨hst, hfree, hcnt, hwrite⟩
    · exact .inl hsame
    · exact .inr (.inl ⟨hst, hfree, hcnt, b, hwrite⟩)
  · obtain ⟨-, rfl⟩ := execRxError_next_iff.mp he
    exact .inl rfl
  · obtain ⟨-, rfl⟩ := execReset_next_iff.mp hr
    exact .inr (.inr rfl)
  · exact .inl (execDispatch_data hd)
  · obtain ⟨-, -, he⟩ := extractAlone_next hf
    exact .inl (extractField_frame he).data

/-- Settles O43: of the three things an instruction does to the buffer (`exec_data_cases`) the step's hypothesis rules out
the first; a write of cell `cnt` leaves the other cells (`storeRead_storeWrite_other`), and RESET empties the buffer. -/
theorem payloadChangesOnlyAtCntInReadingData : Obligations.PayloadChangesOnlyAtCntInReadingData := by
  intro s t h hne
  obtain ⟨-, i, u, -, hu, rfl⟩ := step_next_cases h
  rcases exec_data_cases hu with hsame | ⟨hst, hfree, hcnt, b, hwrite⟩ | rfl
  · exact absurd hsame hne
  · refine .inl ⟨hst, hfree, hcnt, fun j hj => ?_⟩
    rw [State.consume_blk, hwrite]
    exact storeRead_storeWrite_other hj b s.blk.data
  · exact .inr ⟨rfl, rfl⟩

end Sys2Proof.Machine

/-! PROOF. What every step keeps of a well-formed state (`Sound`): 41_frame_codec.md R130 to R138, 20_memory.md R60. -/

namespace Sys2Proof.Machine

/-! ### What a frame in progress is, codec state by codec state -/

theorem frameInProgress_of_idle {cfg : Config} {x : Block} (h : x.st = .idle) : FrameInProgress cfg x := by
  rw [FrameInProgress, h]
  trivial

theorem frameInProgress_gotSync_iff {cfg : Config} {x : Block} (h : x.st = .gotSync) :
    FrameInProgress cfg x ↔
      x.mSync = cfg.syncVal ∧ x.mType = 0 ∧ x.mLen = 0 ∧ x.mOid = 0 ∧ x.mIid = 0 ∧ x.cnt = 0 := by
  rw [FrameInProgress, h]

theorem frameInProgress_readingLength_iff {cfg : Config} {x : Block} (h : x.st = .readingLength) :
    FrameInProgress cfg x ↔ HeaderChecked cfg x ∧ x.mOid = 0 ∧ x.mIid = 0 ∧
      (x.cnt = 0 ∧ x.mLen = 0 ∨ x.cnt = 1 ∧ x.mLen.toNat < 256) := by
  rw [FrameInProgress, h]

theorem frameInProgress_readingObjectId_iff {cfg : Config} {x : Block} (h : x.st = .readingObjectId) :
    FrameInProgress cfg x ↔ HeaderChecked cfg x ∧ lenOk x.mLen = true ∧ x.mIid = 0 ∧ x.cnt.toNat < 4 ∧
      x.mOid.toNat < 2 ^ (8 * x.cnt.toNat) := by
  rw [FrameInProgress, h]

theorem frameInProgress_readingInstanceId_iff {cfg : Config} {x : Block} (h : x.st = .readingInstanceId) :
    FrameInProgress cfg x ↔ HeaderChecked cfg x ∧ lenOk x.mLen = true ∧ x.mLen.toNat ≠ Config.hdrLen ∧
      x.cnt.toNat < 2 ∧ x.mIid.toNat < 2 ^ (8 * x.cnt.toNat) := by
  rw [FrameInProgress, h]

theorem frameInProgress_readingData_iff {cfg : Config} {x : Block} (h : x.st = .readingData) :
    FrameInProgress cfg x ↔ HeaderChecked cfg x ∧ lenOk x.mLen = true ∧ x.mLen.toNat ≠ Config.hdrLen ∧
      x.cnt.toNat < dataCount cfg x.mLen ∧ Written x.data x.cnt.toNat := by
  rw [FrameInProgress, h]

theorem frameInProgress_awaitCrc_iff {cfg : Config} {x : Block} (h : x.st = .awaitCrc) :
    FrameInProgress cfg x ↔ HeaderChecked cfg x ∧ lenOk x.mLen = true ∧ x.cnt = 0 ∧
      (x.mLen.toNat = Config.hdrLen → x.mIid = 0) ∧ Written x.data (rxDataCount cfg x.mLen) := by
  rw [FrameInProgress, h]

theorem not_frameInProgress_illFormed {cfg : Config} {x : Block} (h : x.st = .illFormed) :
    ¬ FrameInProgress cfg x := by
  rw [FrameInProgress, h]
  exact id

/-! ### Bytes placed into a register, and cells written in turn -/

/-- A byte placed above a value of `k` bytes gives a value of `k + 1` bytes (R132 to R134). -/
theorem or_placed_byte_lt {w : Nat} {v : BitVec w} {k : Nat} (b : Byte) (h : v.toNat < 2 ^ (8 * k)) :
    (v ||| b.zeroExtend w <<< (8 * k)).toNat < 2 ^ (8 * (k + 1)) := by
  have hb : (b.zeroExtend w <<< (8 * k)).toNat < 2 ^ (8 * (k + 1)) := by
    calc (b.zeroExtend w <<< (8 * k)).toNat
        ≤ b.toNat * 2 ^ (8 * k) := by
          rw [BitVec.toNat_shiftLeft, Nat.shiftLeft_eq]
          exact (Nat.mod_le _ _).trans
            (Nat.mul_le_mul_right _ ((BitVec.toNat_setWidth _ _).le.trans (Nat.mod_le _ _)))
      _ < 2 ^ 8 * 2 ^ (8 * k) := Nat.mul_lt_mul_of_pos_right b.isLt (by positivity)
      _ = 2 ^ (8 * (k + 1)) := by rw [← pow_add, Nat.mul_add, Nat.add_comm]
  rw [BitVec.toNat_or]
  exact Nat.or_lt_two_pow (h.trans_le (Nat.pow_le_pow_right (by omega) (by omega))) hb

theorem written_zero (m : List Host.Cell) : Written m 0 := fun _ hi => absurd hi (Nat.not_lt_zero _)

theorem written_storeWrite {m : List Host.Cell} {n : Nat} (b : Byte) (h : Written m n) :
    Written (storeWrite n b m) (n + 1) := by
  intro i hi
  rw [storeRead_storeWrite]
  split_ifs with heq
  · rfl
  · exact h i (by omega)

/-- A frame without data, with or without an `m_iid`, has no cell to be written (R122, R123). -/
theorem written_of_rxDataCount_eq_zero {cfg : Config} {len : Half} (m : List Host.Cell)
    (h : rxDataCount cfg len = 0) : Written m (rxDataCount cfg len) := h ▸ written_zero m

/-! ### Writes that keep a state well-formed -/

theorem Sound.data_canonical {s : State} (hs : Sound s) :
    storeWf s.blk.data = true ∧ storeBelow Config.payloadCap s.blk.data = true := by
  obtain ⟨-, ⟨hwf, hbelow, -, -⟩, -, -⟩ := hs
  exact ⟨hwf, hbelow⟩

theorem Sound.frame {s : State} (hs : Sound s) : FrameInProgress s.cfg s.blk := by
  obtain ⟨-, -, hframe, -⟩ := hs
  exact hframe

theorem Sound.heldMessage {s : State} (hs : Sound s) (hheld : s.blk.held = true) : HeldMessage s.cfg s.blk := by
  obtain ⟨-, -, -, hmsg⟩ := hs
  exact hmsg hheld

@[simp] theorem sound_setOut {s : State} {o : Outputs} : Sound (s.setOut o) ↔ Sound s := Iff.rfl
@[simp] theorem sound_addTrace {s : State} {c : Cause} : Sound (s.addTrace c) ↔ Sound s := Iff.rfl
@[simp] theorem sound_emitVerdict {s : State} {v : Verdict} : Sound (s.emitVerdict v) ↔ Sound s := Iff.rfl
@[simp] theorem sound_consume {s : State} : Sound s.consume ↔ Sound s := Iff.rfl

/-- R137: an acknowledgement writes `txq` only, of which `Sound` says nothing. -/
theorem sound_treatMessage {s : State} {k : MsgKind} : Sound (s.treatMessage k) ↔ Sound s := by
  cases k <;> exact Iff.rfl

/-- A codec step that holds nothing has its payload buffer and the frame in progress to show. -/
theorem Sound.setBlk_of_canonical {s : State} {x : Block} (hs : Sound s)
    (hdata : storeWf x.data = true ∧ storeBelow Config.payloadCap x.data = true) (htelem : x.telem = s.blk.telem)
    (hfree : x.held = false) (hframe : FrameInProgress s.cfg x) : Sound (s.setBlk x) := by
  obtain ⟨hcfg, ⟨-, -, hslots, hslotsBelow⟩, -, -⟩ := hs
  obtain ⟨hwf, hbelow⟩ := hdata
  rw [← htelem] at hslots hslotsBelow
  exact ⟨hcfg, ⟨hwf, hbelow, hslots, hslotsBelow⟩, hframe, fun hheld => absurd (hfree.symm.trans hheld) (by decide)⟩

/-- A codec step that leaves both stores alone and holds nothing has only the frame in progress to show. -/
theorem Sound.setBlk_of_free {s : State} {x : Block} (hs : Sound s) (hdata : x.data = s.blk.data)
    (htelem : x.telem = s.blk.telem) (hfree : x.held = false) (hframe : FrameInProgress s.cfg x) :
    Sound (s.setBlk x) :=
  hs.setBlk_of_canonical (by rw [hdata]; exact hs.data_canonical) htelem hfree hframe

/-- R129, R140: giving a frame up keeps the state well-formed, whatever the registers of the frame were. -/
theorem Sound.drop_of_free {s : State} {x : Block} (hs : Sound s) (hdata : x.data = s.blk.data)
    (htelem : x.telem = s.blk.telem) (hfree : x.held = false) {c : Cause} : Sound ((s.setBlk x).drop c) :=
  hs.setBlk_of_free (x := { x with st := .idle }) hdata htelem hfree (frameInProgress_of_idle rfl)

theorem Sound.writeSlot {s : State} {i : Nat} (hs : Sound s) (v : Word) (hi : i < s.cfg.nslots) :
    Sound (s.writeSlot i v) := by
  obtain ⟨hcfg, ⟨hdata, hdataBelow, htelem, htelemBelow⟩, hframe, hheld⟩ := hs
  exact ⟨hcfg, ⟨hdata, hdataBelow, storeWf_storeWrite i v htelem, storeBelow_storeWrite v hi htelemBelow⟩,
    hframe, hheld⟩

theorem Sound.endDispatch {s : State} (hs : Sound s) : Sound s.endDispatch := by
  obtain ⟨hcfg, hstores, hframe, -⟩ := hs
  exact ⟨hcfg, hstores, hframe, fun hheld => by cases hheld⟩

theorem sound_doReset {s : State} (hcfg : configRefusal s.hostCfg = none) : Sound s.doReset :=
  ⟨hcfg, ⟨rfl, rfl, rfl, rfl⟩, frameInProgress_of_idle rfl, fun hheld => by cases hheld⟩

/-! ### The codec, state by state (41_frame_codec.md R130 to R136) -/

section Codec

variable {s : State} (hs : Sound s) (hfree : s.blk.held = false)
include hs hfree

/-- R130. -/
theorem Sound.startFrame : Sound (s.startFrame s.cfg.syncVal) :=
  hs.setBlk_of_free rfl rfl hfree ((frameInProgress_gotSync_iff rfl).mpr ⟨rfl, rfl, rfl, rfl, rfl, rfl⟩)

/-- R131, the version matches. -/
theorem Sound.acceptType {b : Byte} (hst : s.blk.st = .gotSync) (hb : versionOk s.cfg b = true) :
    Sound (s.acceptType b) := by
  obtain ⟨hsync, -, hlen, hoid, hiid, -⟩ := (frameInProgress_gotSync_iff hst).mp hs.frame
  exact hs.setBlk_of_free rfl rfl hfree
    ((frameInProgress_readingLength_iff rfl).mpr ⟨⟨hsync, hb⟩, hoid, hiid, .inl ⟨rfl, hlen⟩⟩)

/-- R132. -/
theorem Sound.takeLength (b : Byte) (hst : s.blk.st = .readingLength) : Sound (s.takeLength b) := by
  obtain ⟨hheader, hoid, hiid, -⟩ := (frameInProgress_readingLength_iff hst).mp hs.frame
  rcases takeLength_cases s b with ⟨-, e⟩ | ⟨-, hlen, e⟩ | ⟨-, -, e⟩ <;> rw [e]
  · have hlow : (b.zeroExtend 16).toNat < 256 := by
      rw [BitVec.toNat_setWidth]
      exact (Nat.mod_le _ _).trans_lt b.isLt
    exact hs.setBlk_of_free rfl rfl hfree
      ((frameInProgress_readingLength_iff (by exact hst)).mpr ⟨hheader, hoid, hiid, .inr ⟨rfl, hlow⟩⟩)
  · have hfirst : (0 : Byte).toNat < 4 := by decide
    have hnone : s.blk.mOid.toNat < 2 ^ (8 * (0 : Byte).toNat) := by simp [hoid]
    exact hs.setBlk_of_free rfl rfl hfree
      ((frameInProgress_readingObjectId_iff rfl).mpr ⟨hheader, hlen, hiid, hfirst, hnone⟩)
  · refine hs.drop_of_free ?_ ?_ ?_
    exacts [rfl, rfl, hfree]

/-- R133: after the fourth byte a header-only frame has neither `m_iid` nor data to wait for. -/
theorem Sound.takeObjectId (b : Byte) (hst : s.blk.st = .readingObjectId) : Sound (s.takeObjectId b) := by
  obtain ⟨hheader, hlen, hiid, hcnt, hoid⟩ := (frameInProgress_readingObjectId_iff hst).mp hs.frame
  rcases takeObjectId_cases s b with ⟨hmore, e⟩ | ⟨-, e⟩ <;> rw [e]
  · have hsucc : (s.blk.cnt + 1).toNat = s.blk.cnt.toNat + 1 := by bv_omega
    have hcnt' : (s.blk.cnt + 1).toNat < 4 := by bv_omega
    have hoid' := or_placed_byte_lt b hoid
    rw [← hsucc] at hoid'
    exact hs.setBlk_of_free rfl rfl hfree
      ((frameInProgress_readingObjectId_iff (by exact hst)).mpr ⟨hheader, hlen, hiid, hcnt', hoid'⟩)
  · refine hs.setBlk_of_free rfl rfl hfree ?_
    split_ifs with hhdr
    · exact (frameInProgress_awaitCrc_iff rfl).mpr
        ⟨hheader, hlen, rfl, fun _ => hiid, written_of_rxDataCount_eq_zero _ (if_pos hhdr)⟩
    · have hfirst : (0 : Byte).toNat < 2 := by decide
      have hnone : s.blk.mIid.toNat < 2 ^ (8 * (0 : Byte).toNat) := by simp [hiid]
      exact (frameInProgress_readingInstanceId_iff rfl).mpr ⟨hheader, hlen, hhdr, hfirst, hnone⟩

/-- R134. -/
theorem Sound.takeInstanceId (b : Byte) (hst : s.blk.st = .readingInstanceId) : Sound (s.takeInstanceId b) := by
  obtain ⟨hheader, hlen, hhdr, hcnt, hiid⟩ := (frameInProgress_readingInstanceId_iff hst).mp hs.frame
  rcases takeInstanceId_cases s b with ⟨hmore, e⟩ | ⟨-, e⟩ <;> rw [e]
  · have hsucc : (s.blk.cnt + 1).toNat = s.blk.cnt.toNat + 1 := by bv_omega
    have hcnt' : (s.blk.cnt + 1).toNat < 2 := by bv_omega
    have hiid' := or_placed_byte_lt b hiid
    rw [← hsucc] at hiid'
    exact hs.setBlk_of_free rfl rfl hfree
      ((frameInProgress_readingInstanceId_iff (by exact hst)).mpr ⟨hheader, hlen, hhdr, hcnt', hiid'⟩)
  · refine hs.setBlk_of_free rfl rfl hfree ?_
    split_ifs with hdata
    · exact (frameInProgress_awaitCrc_iff rfl).mpr ⟨hheader, hlen, rfl, fun h => absurd h hhdr,
        written_of_rxDataCount_eq_zero _ ((rxDataCount_of_ne hhdr).trans hdata)⟩
    · exact (frameInProgress_readingData_iff rfl).mpr
        ⟨hheader, hlen, hhdr, Nat.pos_of_ne_zero hdata, written_zero _⟩

/-- R135: the cells below `cnt` are written, so after the last data byte all of them are. -/
theorem Sound.of_takeData {t : State} {b : Byte} (hst : s.blk.st = .readingData) (h : s.takeData b = .next t) :
    Sound t := by
  obtain ⟨hheader, hlen, hhdr, hcnt, hwritten⟩ := (frameInProgress_readingData_iff hst).mp hs.frame
  obtain ⟨hcap, rfl⟩ := takeData_eq_next_iff.mp h
  obtain ⟨hwf, hbelow⟩ := hs.data_canonical
  have hcanonical := memWrite_canonical (v := b) (memWrite_eq_some_iff.mpr ⟨hcap, rfl⟩) hwf hbelow
  have hwritten' := written_storeWrite b hwritten
  have hsucc : (s.blk.cnt + 1).toNat = s.blk.cnt.toNat + 1 := by
    have := dataCount_le s.cfg hlen
    bv_omega
  rw [← hsucc] at hwritten'
  split_ifs with hlast
  · refine hs.setBlk_of_canonical hcanonical rfl hfree ((frameInProgress_awaitCrc_iff rfl).mpr ?_)
    have hall : rxDataCount s.cfg s.blk.mLen = (s.blk.cnt + 1).toNat := (rxDataCount_of_ne hhdr).trans hlast.symm
    exact ⟨hheader, hlen, rfl, fun h => absurd h hhdr, hall ▸ hwritten'⟩
  · have hcnt' : (s.blk.cnt + 1).toNat < dataCount s.cfg s.blk.mLen := by omega
    exact hs.setBlk_of_canonical hcanonical rfl hfree
      ((frameInProgress_readingData_iff (by exact hst)).mpr ⟨hheader, hlen, hhdr, hcnt', hwritten'⟩)

/-- R136, the CRC byte does not match. -/
theorem Sound.rejectFrame (b : Byte) : Sound (s.rejectFrame b) :=
  hs.setBlk_of_free rfl rfl hfree (frameInProgress_of_idle rfl)

end Codec

/-- R136: the hold begins with the guarantees that AwaitCrc carries, and with the CRC byte equal to `acc`. -/
theorem Sound.acceptFrame {s : State} (hs : Sound s) (hst : s.blk.st = .awaitCrc) : Sound (s.acceptFrame s.blk.acc) := by
  obtain ⟨hcfg, hstores, hframe, -⟩ := hs
  obtain ⟨hheader, hlen, -, hiid, hwritten⟩ := (frameInProgress_awaitCrc_iff hst).mp hframe
  have hheld : Sound (s.setBlk { s.blk with mCrc := s.blk.acc, st := .idle, held := true }) :=
    ⟨hcfg, hstores, frameInProgress_of_idle rfl, fun _ => ⟨rfl, hheader, hlen, hiid, hwritten, rfl⟩⟩
  rw [State.acceptFrame, sound_treatMessage, sound_addTrace, sound_emitVerdict]
  exact hheld

/-- RX_BYTE, in each codec state (R125). -/
theorem Sound.of_execRxByte {s t : State} {b : Byte} (hs : Sound s) (h : execRxByte b s = .next t) : Sound t := by
  obtain ⟨hfree, hc⟩ := execRxByte_next_cases h
  rcases hc with ⟨-, rfl, rfl⟩ | ⟨-, -, rfl⟩ | ⟨hst, hb, rfl⟩ | ⟨-, -, rfl⟩ | ⟨hst, rfl⟩ | ⟨hst, rfl⟩ |
    ⟨hst, rfl⟩ | ⟨hst, hdata⟩ | ⟨hst, rfl, rfl⟩ | ⟨-, -, rfl⟩
  · exact hs.startFrame hfree
  · exact hs
  · exact hs.acceptType hfree hst hb
  · exact hs.drop_of_free (x := s.blk.fold b) rfl rfl hfree
  · exact hs.takeLength hfree b hst
  · exact hs.takeObjectId hfree b hst
  · exact hs.takeInstanceId hfree b hst
  · exact hs.of_takeData hfree hst hdata
  · exact hs.acceptFrame hst
  · exact hs.rejectFrame hfree b

/-! ### The dispatcher (42_field_extractor.md R177, R180) -/

/-- A field that fits writes a slot that exists (R172), or none. -/
theorem Sound.of_extractField {s t : State} {k : FieldKind} {o d : Byte} (hs : Sound s)
    (hfits : fieldFits s.cfg k o d = true) (h : s.extractField k o d = .next t) : Sound t := by
  rcases extractField_next_cases h with ⟨-, raw, -, rfl⟩ | ⟨-, rfl⟩
  · exact hs.writeSlot _ (fieldFits_iff.mp hfits).2
  · exact hs

theorem Sound.of_extractAll {ds : List Word} {s t : State} (hs : Sound s) (h : extractAll ds s = .next t) :
    Sound t :=
  extractAll_induction (P := Sound) (fun _ _ _ _ _ hu hfits he => hu.of_extractField hfits he) hs h

theorem Sound.of_execDispatch {s t : State} (hs : Sound s) (h : execDispatch s = .next t) : Sound t := by
  obtain ⟨-, ⟨-, rfl⟩ | ⟨descs, u, -, hu, rfl⟩⟩ := execDispatch_next_cases h
  · exact Sound.endDispatch (s := (s.setOut Outputs.idle).addTrace (.unknownObject s.blk.mOid)) hs
  · exact (Sound.of_extractAll (sound_setOut.mpr hs) hu).endDispatch

/-! ### Every instruction, every step -/

theorem Sound.of_exec {i : Instr} {s t : State} (hs : Sound s) (h : exec i s = .next t) : Sound t := by
  rcases exec_next_cases h with rfl | ⟨y, rfl⟩ | ⟨b, hb⟩ | he | ⟨-, hr⟩ | ⟨-, hd⟩ | ⟨k, o, d, hf⟩
  · exact hs
  · exact hs
  · exact hs.of_execRxByte hb
  · obtain ⟨hfree, rfl⟩ := execRxError_next_iff.mp he
    exact hs.drop_of_free (x := s.blk) rfl rfl hfree
  · obtain ⟨hcfg, rfl⟩ := execReset_next_iff.mp hr
    exact sound_doReset hcfg
  · exact hs.of_execDispatch hd
  · obtain ⟨hfits, -, he⟩ := extractAlone_next hf
    exact Sound.of_extractField (s := s.setOut s.out.goOn) hs hfits he

/-- Settles O40: a step is one instruction (`Sound.of_exec`), and the use of its input leaves the block alone. -/
theorem everyStepKeepsSound : Obligations.EveryStepKeepsSound := by
  intro s t hs h
  obtain ⟨-, i, u, -, hu, rfl⟩ := step_next_cases h
  exact sound_consume.mpr (hs.of_exec hu)

end Sys2Proof.Machine

/-! PROOF. Where a fault can come from, and that none comes out of a well-formed state (60_exceptions.md R200,
20_memory.md R52, R53, 41_frame_codec.md R125). -/

namespace Sys2Proof.Machine

/-! ### Where a fault can come from -/

theorem whenFree_eq_fault_iff {s : State} {r : Result} {f : Fault} :
    s.whenFree r = .fault f ↔ s.blk.held = false ∧ r = .fault f := by
  cases h : s.blk.held <;> simp [State.whenFree, h]

theorem whenHeld_eq_fault_iff {s : State} {r : Result} {f : Fault} :
    s.whenHeld r = .fault f ↔ s.blk.held = true ∧ r = .fault f := by
  cases h : s.blk.held <;> simp [State.whenHeld, h]

theorem inCodecState_eq_fault_iff {s : State} {k : CodecState} {r : Result} {f : Fault} :
    s.inCodecState k r = .fault f ↔ s.blk.held = false ∧ s.blk.st = k ∧ r = .fault f := by
  rw [State.inCodecState, whenFree_eq_fault_iff]
  by_cases h : s.blk.st = k <;> simp [h]

theorem inCodecState_ne_fault {s u : State} {k : CodecState} {f : Fault} :
    s.inCodecState k (.next u) ≠ .fault f := by
  intro h
  obtain ⟨-, -, hr⟩ := inCodecState_eq_fault_iff.mp h
  cases hr

/-- RX_BYTE faults in state 7 (R125), and where a data byte overruns the buffer (R52). -/
theorem execRxByte_fault_cases {s : State} {b : Byte} {f : Fault} (h : execRxByte b s = .fault f) :
    s.blk.st = .illFormed ∨ (s.blk.st = .readingData ∧ s.takeData b = .fault f) := by
  obtain ⟨-, h⟩ := whenFree_eq_fault_iff.mp h
  cases hst : s.blk.st <;> simp only [hst] at h
  case readingData => exact .inr ⟨rfl, h⟩
  case illFormed => exact .inl rfl
  all_goals cases h

/-- Every instruction that faults is a byte in state 7, a data byte, DISPATCH, or one field of it. -/
theorem exec_fault_cases {i : Instr} {s : State} {f : Fault} (h : exec i s = .fault f) :
    s.blk.st = .illFormed ∨ (s.blk.st = .readingData ∧ ∃ b, s.takeData b = .fault f) ∨
      execDispatch s = .fault f ∨ ∃ k o d, s.extractAlone k o d = .fault f := by
  have field {k o d} (h : s.extractAlone k o d = .fault f) :
      ∃ k o d, s.extractAlone k o d = .fault f := ⟨k, o, d, h⟩
  cases i
  case rxByte b =>
    rcases execRxByte_fault_cases h with hill | ⟨hst, hdata⟩
    · exact .inl hill
    · exact .inr (.inl ⟨hst, b, hdata⟩)
  case rxReadingData b =>
    obtain ⟨-, hst, hdata⟩ := inCodecState_eq_fault_iff.mp h
    exact .inr (.inl ⟨hst, b, hdata⟩)
  case rxIllFormedState b =>
    obtain ⟨-, hst, -⟩ := inCodecState_eq_fault_iff.mp h
    exact .inl hst
  case dispatch => exact .inr (.inr (.inl h))
  case extU8 | extI8 | extU16 | extI16 | extU32 | extI32 | extF32 => exact .inr (.inr (.inr (field h)))
  case rxNone | crcStep | reservedAction101 | reservedAction110 | reservedAction111 | reservedKind7 |
      reservedKind8to15 => cases h
  case rxError =>
    obtain ⟨-, hr⟩ := whenFree_eq_fault_iff.mp h
    cases hr
  case reset =>
    simp only [exec, execReset] at h
    split at h <;> cases h
  case rxIdleOther b | rxGotSyncBadVersion b =>
    obtain ⟨-, -, hr⟩ := inCodecState_eq_fault_iff.mp h
    split at hr <;> cases hr
  all_goals exact absurd h inCodecState_ne_fault

/-- A step faults only where its instruction does. -/
theorem step_fault_cases {s : State} {f : Fault} (h : step s = .fault f) : ∃ i, exec i s = .fault f := by
  rw [step] at h
  split at h
  · cases h
  · split at h
    · cases h
    · rename_i i _
      rcases andThen_eq_fault_iff.mp h with hi | ⟨u, -, hu⟩
      · exact ⟨i, hi⟩
      · cases hu

/-! ### The codec -/

/-- R62: `cnt` stays below the data count, so below the capacity of the buffer. -/
theorem Sound.takeData_ne_fault {s : State} (hs : Sound s) (hst : s.blk.st = .readingData) (b : Byte) (f : Fault) :
    s.takeData b ≠ .fault f := by
  intro h
  obtain ⟨-, hlen, -, hcnt, -⟩ := (frameInProgress_readingData_iff hst).mp hs.frame
  obtain ⟨hover, -⟩ := takeData_eq_fault_iff.mp h
  exact hover (hcnt.trans_le (dataCount_le s.cfg hlen))

/-! ### The dispatcher -/

/-- R53: a read below the received data count of a held message finds its cells written. -/
theorem HeldMessage.memRead_ok {cfg : Config} {x : Block} {i n : Nat} (hmsg : HeldMessage cfg x)
    (hin : i + n ≤ rxDataCount cfg x.mLen) : ∃ v, memRead x.data i n = .ok v := by
  obtain ⟨-, -, hlen, -, hwritten, -⟩ := hmsg
  have hcells : (readLE x.data i n).isSome = true := readLE_isSome fun j _ hj => hwritten j (by omega)
  obtain ⟨v, hv⟩ := Option.isSome_iff_exists.mp hcells
  exact ⟨v, memRead_eq_ok_iff.mpr ⟨hin.trans (rxDataCount_le cfg hlen), hv⟩⟩

/-- R176, R178: a field of a held message is read where its bytes were received, and skipped elsewhere. -/
theorem HeldMessage.extractField_ne_fault {s : State} (hmsg : HeldMessage s.cfg s.blk) (k : FieldKind) (o d : Byte)
    (f : Fault) : s.extractField k o d ≠ .fault f := by
  rw [State.extractField]
  split_ifs with hle
  · obtain ⟨v, hv⟩ := hmsg.memRead_ok hle
    simp [hv]
  · simp

theorem HeldMessage.of_extractField {s t : State} {k : FieldKind} {o d : Byte} (hmsg : HeldMessage s.cfg s.blk)
    (h : s.extractField k o d = .next t) : HeldMessage t.cfg t.blk := by
  obtain ⟨htelem, hcfg, -, -, -, -⟩ := extractField_frame h
  rw [hcfg, htelem]
  exact hmsg

theorem HeldMessage.extractAll_ne_fault {ds : List Word} {s : State} (hmsg : HeldMessage s.cfg s.blk) (f : Fault) :
    extractAll ds s ≠ .fault f := by
  induction ds generalizing s with
  | nil => exact fun h => by cases h
  | cons d ds ih =>
    intro h
    rcases andThen_eq_fault_iff.mp h with hd | ⟨u, hu, hds⟩
    · rw [State.extractWord] at hd
      split at hd
      · split at hd
        · exact hmsg.extractField_ne_fault _ _ _ f hd
        · cases hd
      · cases hd
    · obtain ⟨k, o, x, -, -, he⟩ := extractWord_next hu
      exact ih (hmsg.of_extractField he) hds

theorem Sound.execDispatch_ne_fault {s : State} (hs : Sound s) (f : Fault) : execDispatch s ≠ .fault f := by
  intro h
  obtain ⟨hheld, h⟩ := whenHeld_eq_fault_iff.mp h
  split at h
  · cases h
  · rcases andThen_eq_fault_iff.mp h with hall | ⟨u, -, hu⟩
    · exact HeldMessage.extractAll_ne_fault (s := s.setOut Outputs.idle) (hs.heldMessage hheld) f hall
    · cases hu

theorem Sound.extractAlone_ne_fault {s : State} (hs : Sound s) (k : FieldKind) (o d : Byte) (f : Fault) :
    s.extractAlone k o d ≠ .fault f := by
  rw [State.extractAlone]
  split_ifs
  · intro h
    obtain ⟨hheld, h⟩ := whenHeld_eq_fault_iff.mp h
    exact HeldMessage.extractField_ne_fault (s := s.setOut s.out.goOn) (hs.heldMessage hheld) k o d f h
  · simp

/-- Settles O41: each of the four sources of a fault (`exec_fault_cases`) is ruled out by what `Sound` says of the frame in
progress or of the held message. -/
theorem soundStatesNeverFault : Obligations.SoundStatesNeverFault := by
  intro s hs f h
  obtain ⟨i, hi⟩ := step_fault_cases h
  rcases exec_fault_cases hi with hill | ⟨hst, b, hdata⟩ | hdispatch | ⟨k, o, d, hfield⟩
  · exact not_frameInProgress_illFormed hill hs.frame
  · exact hs.takeData_ne_fault hst b f hdata
  · exact hs.execDispatch_ne_fault f hdispatch
  · exact hs.extractAlone_ne_fault k o d f hfield

end Sys2Proof.Machine

/-! PROOF. The five encoding tables (30_encoding.md R72, R80 to R88): the decoder and the encoder undo each other, and
the words and rows to which the spec gives no effect are refused by name. -/

namespace Sys2Proof

open Machine

/-! ### A word from its parts -/

/-- A word whose upper part is known. -/
theorem append_of_extractLsb'_eq {n m : Nat} {w : BitVec (n + m)} {hi : BitVec n} (h : w.extractLsb' m n = hi) :
    hi ++ w.extractLsb' 0 m = w := by
  rw [← h, append_extractLsb']

theorem exists_eq_code_append (w : BitVec 11) : ∃ (c : BitVec 3) (b : Byte), w = c ++ b :=
  ⟨w.extractLsb' 8 3, w.extractLsb' 0 8, (append_extractLsb' (n := 3) (m := 8) w).symm⟩

@[simp] theorem extractLsb'_code_append (c : BitVec 3) (b : Byte) : (c ++ b).extractLsb' 8 3 = c :=
  extractLsb'_append_high c b

@[simp] theorem extractLsb'_byte_append (c : BitVec 3) (b : Byte) : (c ++ b).extractLsb' 0 8 = b :=
  extractLsb'_append_low c b

/-! ### Action words (R80, R81) -/

/-- The row of an action code, with the data byte where the row has one. -/
def actionRow (c : BitVec 3) (b : Byte) : Instr :=
  match c.toNat with
  | 0 => .rxNone
  | 1 => .rxByte b
  | 2 => .rxError
  | 3 => .dispatch
  | 4 => .reset
  | 5 => .reservedAction101 b
  | 6 => .reservedAction110 b
  | _ => .reservedAction111 b

/-- The codes of the actions without a data byte: RX_NONE, RX_ERROR, DISPATCH and RESET. -/
abbrev BareCode (c : BitVec 3) : Prop := c = 0 ∨ c = 2 ∨ c = 3 ∨ c = 4

theorem not_bareCode_cases {c : BitVec 3} (h : ¬ BareCode c) : c = 1 ∨ c = 5 ∨ c = 6 ∨ c = 7 := by
  revert c; decide

/-- R81: a non-zero data byte under a bare code spells no action. -/
theorem decodeAction_of_bareCode {c : BitVec 3} {b : Byte} (hc : BareCode c) (hb : b ≠ 0) :
    decodeAction (c ++ b) = .error .reservedAction := by
  have hb' : ¬ b = 0#8 := hb
  rcases hc with rfl | rfl | rfl | rfl <;> simp [decodeAction, hb']

/-- R80: every other word is the row of its code. -/
theorem decodeAction_append {c : BitVec 3} {b : Byte} (h : BareCode c → b = 0) :
    decodeAction (c ++ b) = .ok (actionRow c b) := by
  by_cases hc : BareCode c
  · obtain rfl := h hc
    rcases hc with rfl | rfl | rfl | rfl <;> rfl
  · rcases not_bareCode_cases hc with rfl | rfl | rfl | rfl <;> simp [decodeAction, actionRow]

/-- The action decoder goes on only with the row of its code. -/
theorem decodeAction_eq_ok {c : BitVec 3} {b : Byte} {i : Instr} (h : decodeAction (c ++ b) = .ok i) :
    (BareCode c → b = 0) ∧ i = actionRow c b := by
  have hbare : BareCode c → b = 0 := by
    intro hc
    by_contra hb
    simp [decodeAction_of_bareCode hc hb] at h
  exact ⟨hbare, Except.ok.inj (h.symm.trans (decodeAction_append hbare))⟩

theorem encode_actionRow (cfg : Config) {c : BitVec 3} {b : Byte} (h : BareCode c → b = 0) :
    encode cfg (actionRow c b) = actionWord c b := by
  by_cases hc : BareCode c
  · obtain rfl := h hc
    rcases hc with rfl | rfl | rfl | rfl <;> rfl
  · rcases not_bareCode_cases hc with rfl | rfl | rfl | rfl <;> rfl

/-- R81: the action codes 101, 110 and 111 are refused in every state. -/
theorem exec_actionRow_reserved {c : BitVec 3} (hc : 5 ≤ c.toNat) (b : Byte) (s : State) :
    exec (actionRow c b) s = .refused .reservedAction := by
  have hcode : c = 5 ∨ c = 6 ∨ c = 7 := by revert c; decide
  rcases hcode with rfl | rfl | rfl <;> rfl

/-! ### Descriptors (R82) -/

theorem encode_extInstr (cfg : Config) (k : FieldKind) (o d : Byte) :
    encode cfg (extInstr k o d) = .descriptor (descWord k o d) := by
  cases k <;> rfl

@[simp] theorem decodeDescriptor_descWord (k : FieldKind) (o d : Byte) :
    decodeDescriptor (descWord k o d) = .ok (extInstr k o d) := by
  simp [decodeDescriptor]

theorem kindOfCode_eq_none_iff {c : Nibble} : kindOfCode c = none ↔ 7 ≤ c.toNat := by
  revert c; decide

/-- A descriptor of a reserved kind names no field, whatever its other bits are. -/
theorem descFields_eq_none {d : Word} (h : 7 ≤ (descKindCode d).toNat) : descFields d = none := by
  simp [descFields, kindOfCode_eq_none_iff.mpr h]

/-- A kind of 8 or more is one whose top bit, which is the descriptor's, is set. -/
theorem eight_le_descKindCode_iff {d : Word} : 8 ≤ (descKindCode d).toNat ↔ d.extractLsb' 31 1 = 1 := by
  have htop : (descKindCode d).extractLsb' 3 1 = d.extractLsb' 31 1 := by
    ext j hj
    obtain rfl : j = 0 := by omega
    simp [descKindCode]
  have hkind : ∀ c : Nibble, 8 ≤ c.toNat ↔ c.extractLsb' 3 1 = 1 := by decide
  rw [hkind, htop]

theorem decodeDescriptor_kind7 {d : Word} (h : descKindCode d = 7) :
    decodeDescriptor d = .ok (.reservedKind7 (d.extractLsb' 0 28)) := by
  simp [decodeDescriptor, descFields_eq_none, h]

theorem decodeDescriptor_kind8to15 {d : Word} (h : 8 ≤ (descKindCode d).toNat) :
    decodeDescriptor d = .ok (.reservedKind8to15 (d.extractLsb' 0 31)) := by
  simp [decodeDescriptor, descFields_eq_none (Nat.le_of_succ_le h), h]

/-- Everything the descriptor decoder does. -/
theorem decodeDescriptor_cases (d : Word) :
    (∃ k o x, d = descWord k o x ∧ decodeDescriptor d = .ok (extInstr k o x)) ∨
    (descKindCode d = 7 ∧ decodeDescriptor d = .ok (.reservedKind7 (d.extractLsb' 0 28))) ∨
    (8 ≤ (descKindCode d).toNat ∧ decodeDescriptor d = .ok (.reservedKind8to15 (d.extractLsb' 0 31))) ∨
    decodeDescriptor d = .error .badDescriptor := by
  cases hfields : descFields d with
  | some f =>
    obtain ⟨k, o, x⟩ := f
    obtain rfl := descFields_eq_some_iff.mp hfields
    exact .inl ⟨k, o, x, rfl, decodeDescriptor_descWord k o x⟩
  | none =>
    by_cases h8 : 8 ≤ (descKindCode d).toNat
    · exact .inr (.inr (.inl ⟨h8, decodeDescriptor_kind8to15 h8⟩))
    · by_cases h7 : descKindCode d = 7
      · exact .inr (.inl ⟨h7, decodeDescriptor_kind7 h7⟩)
      · refine .inr (.inr (.inr ?_))
        rw [decodeDescriptor, hfields]
        exact (if_neg h8).trans (if_neg h7)

/-! ### msg_type bytes (R72) -/

/-- What a type nibble is, with distinct codes or without. -/
theorem msgKind_cases (cfg : Config) (ty : Nibble) :
    (msgKind cfg ty = .objAck ∧ ty = cfg.typeObjAck) ∨ (msgKind cfg ty = .obj ∧ ty = cfg.typeObj) ∨
    (msgKind cfg ty = .objReq ∧ ty = cfg.typeObjReq) ∨ (msgKind cfg ty = .ack ∧ ty = cfg.typeAck) ∨
    (msgKind cfg ty = .nack ∧ ty = cfg.typeNack) ∨ msgKind cfg ty = .reserved := by
  unfold msgKind
  split_ifs <;> simp_all

section Types

variable {cfg : Config} (hcfg : configRefusal cfg = none)
include hcfg

/-- 00_scope.md R9: the five codes are pairwise distinct. -/
theorem typeCodes_nodup : [cfg.typeObj, cfg.typeObjReq, cfg.typeObjAck, cfg.typeAck, cfg.typeNack].Nodup := by
  obtain ⟨hparams, -⟩ := configRefusal_eq_none_iff.mp hcfg
  simp only [paramsOk, Bool.and_eq_true, decide_eq_true_iff] at hparams
  obtain ⟨⟨hnodup, -⟩, -⟩ := hparams
  exact hnodup

/-- Distinct codes select their own types. -/
theorem msgKind_of_typeCodes :
    msgKind cfg cfg.typeObj = .obj ∧ msgKind cfg cfg.typeObjReq = .objReq ∧ msgKind cfg cfg.typeObjAck = .objAck ∧
      msgKind cfg cfg.typeAck = .ack ∧ msgKind cfg cfg.typeNack = .nack := by
  have h := typeCodes_nodup hcfg
  simp only [List.nodup_cons, List.mem_cons, List.not_mem_nil, or_false, not_or] at h
  obtain ⟨⟨h₁, h₂, h₃, h₄⟩, ⟨h₅, h₆, h₇⟩, ⟨h₈, h₉⟩, h₁₀, -⟩ := h
  simp [msgKind, *, Ne.symm]

end Types

/-- A type nibble below 5 that no type code has is the row with the type nibble open. -/
theorem reservedTypeInstr_of_lt {ty : Nibble} (h : ty.toNat < 5) : reservedTypeInstr ty = .msgVersionCheck ty := by
  revert ty; decide

/-- The rows of the type nibbles no type code has: each is the byte of its nibble. -/
theorem encode_reservedTypeInstr (cfg : Config) (ty : Nibble) :
    encode cfg (reservedTypeInstr ty) = .msgType (typeByte cfg.version ty) := by
  obtain ⟨n, hn⟩ := ty
  interval_cases n <;> rfl

theorem decodeMsgType_reserved {cfg : Config} {ty : Nibble} (h : msgKind cfg ty = .reserved) :
    decodeMsgType cfg (typeByte cfg.version ty) = reservedTypeInstr ty := by
  simp [decodeMsgType, versionOk_typeByte, h]

theorem typeByte_loNibble {b : Byte} {version : Nibble} (h : hiNibble b = version) :
    typeByte version (loNibble b) = b := by
  rw [← h, typeByte_nibbles]

/-- A msg_type byte of the right version decodes to a row of that very byte. -/
theorem encode_decodeMsgType {cfg : Config} {b : Byte} (hb : hiNibble b = cfg.version) :
    encode cfg (decodeMsgType cfg b) = .msgType b := by
  obtain ⟨ty, rfl⟩ : ∃ ty, b = typeByte cfg.version ty := ⟨loNibble b, (typeByte_loNibble hb).symm⟩
  simp only [decodeMsgType, versionOk_typeByte, if_true, loNibble_typeByte]
  rcases msgKind_cases cfg ty with ⟨h, rfl⟩ | ⟨h, rfl⟩ | ⟨h, rfl⟩ | ⟨h, rfl⟩ | ⟨h, rfl⟩ | h <;> rw [h]
  · rfl
  · rfl
  · rfl
  · rfl
  · rfl
  · exact encode_reservedTypeInstr cfg ty

/-! ### Codec-step keys (R88) -/

/-- Every key decodes to a row of that very key. -/
theorem encode_decodeCodecKey (cfg : Config) (c : BitVec 3) (b : Byte) :
    encode cfg (decodeCodecKey cfg (c ++ b)) = keyWord c b := by
  have hcode : c = 0 ∨ c = 1 ∨ c = 2 ∨ c = 3 ∨ c = 4 ∨ c = 5 ∨ c = 6 ∨ c = 7 := by revert c; decide
  simp only [decodeCodecKey, extractLsb'_code_append, extractLsb'_byte_append]
  rcases hcode with rfl | rfl | rfl | rfl | rfl | rfl | rfl | rfl
  · by_cases hb : b = cfg.syncVal <;> simp [hb, encode]
  · by_cases hb : versionOk cfg b = true
    · have hver : hiNibble b = cfg.version := by simpa [versionOk] using hb
      simp [hb, encode, typeByte_loNibble hver]
    · simp [hb, encode]
  all_goals rfl

/-! ### Decoding an encoded instruction -/

theorem decode_encode_actionRow (cfg : Config) {c : BitVec 3} {b : Byte} (h : BareCode c → b = 0) :
    decode cfg (encode cfg (actionRow c b)) = .ok (actionRow c b) := by
  rw [encode_actionRow cfg h]
  exact decodeAction_append h

theorem decode_encode_extInstr (cfg : Config) (k : FieldKind) (o d : Byte) :
    decode cfg (encode cfg (extInstr k o d)) = .ok (extInstr k o d) := by
  rw [encode_extInstr]
  exact decodeDescriptor_descWord k o d

theorem decode_encode_reservedKind7 (cfg : Config) (rest : BitVec 28) :
    decode cfg (encode cfg (.reservedKind7 rest)) = .ok (.reservedKind7 rest) :=
  (decodeDescriptor_kind7 (extractLsb'_append_high (7 : BitVec 4) rest)).trans
    (congrArg (fun r => Except.ok (Instr.reservedKind7 r)) (extractLsb'_append_low (7 : BitVec 4) rest))

theorem decode_encode_reservedKind8to15 (cfg : Config) (rest : BitVec 31) :
    decode cfg (encode cfg (.reservedKind8to15 rest)) = .ok (.reservedKind8to15 rest) :=
  (decodeDescriptor_kind8to15
      (eight_le_descKindCode_iff.mpr (extractLsb'_append_high (1 : BitVec 1) rest))).trans
    (congrArg (fun r => Except.ok (Instr.reservedKind8to15 r)) (extractLsb'_append_low (1 : BitVec 1) rest))

theorem decode_encode_reservedTypeInstr {cfg : Config} {ty : Nibble} {i : Instr}
    (h : msgKind cfg ty = .reserved) (hi : reservedTypeInstr ty = i) : decode cfg (encode cfg i) = .ok i := by
  rw [← hi, encode_reservedTypeInstr]
  exact congrArg Except.ok (decodeMsgType_reserved h)

/-- Settles O1, table by table: an action or a descriptor is its row's code and operands, a msg_type row is the byte of
its type nibble, whose type the distinct codes give back, and a codec-step row is its key. -/
theorem decodeOfEncodeGivesTheInstruction : Obligations.DecodeOfEncodeGivesTheInstruction := by
  intro cfg i hcfg hwf
  obtain ⟨hobj, hobjReq, hobjAck, hack, hnack⟩ := msgKind_of_typeCodes hcfg
  cases i
  case rxNone => exact decode_encode_actionRow cfg (c := 0) fun _ => rfl
  case rxByte b => exact decode_encode_actionRow cfg (c := 1) (b := b) (absurd · (by decide))
  case rxError => exact decode_encode_actionRow cfg (c := 2) fun _ => rfl
  case dispatch => exact decode_encode_actionRow cfg (c := 3) fun _ => rfl
  case reset => exact decode_encode_actionRow cfg (c := 4) fun _ => rfl
  case reservedAction101 x => exact decode_encode_actionRow cfg (c := 5) (b := x) (absurd · (by decide))
  case reservedAction110 x => exact decode_encode_actionRow cfg (c := 6) (b := x) (absurd · (by decide))
  case reservedAction111 x => exact decode_encode_actionRow cfg (c := 7) (b := x) (absurd · (by decide))
  case crcStep a b =>
    simp [encode, decode, decodeCrcPort, extractLsb'_append_high a b, extractLsb'_append_low a b]
  case extU8 o d => exact decode_encode_extInstr cfg .u8 o d
  case extI8 o d => exact decode_encode_extInstr cfg .i8 o d
  case extU16 o d => exact decode_encode_extInstr cfg .u16 o d
  case extI16 o d => exact decode_encode_extInstr cfg .i16 o d
  case extU32 o d => exact decode_encode_extInstr cfg .u32 o d
  case extI32 o d => exact decode_encode_extInstr cfg .i32 o d
  case extF32 o d => exact decode_encode_extInstr cfg .f32 o d
  case reservedKind7 rest => exact decode_encode_reservedKind7 cfg rest
  case reservedKind8to15 rest => exact decode_encode_reservedKind8to15 cfg rest
  case msgObj | msgObjReq | msgObjAck | msgAck | msgNack =>
    simp [encode, decode, decodeMsgType, versionOk_typeByte, hobj, hobjReq, hobjAck, hack, hnack]
  case msgReserved25 | msgReserved26 | msgReserved27 | msgReserved28 | msgReserved29 | msgReserved2A | msgReserved2B |
      msgReserved2C | msgReserved2D | msgReserved2E | msgReserved2F =>
    exact decode_encode_reservedTypeInstr (eq_of_beq hwf) rfl
  case msgVersionCheck ty =>
    obtain ⟨hkind, hlt⟩ := (Bool.and_eq_true _ _).mp hwf
    exact decode_encode_reservedTypeInstr (eq_of_beq hkind) (reservedTypeInstr_of_lt (of_decide_eq_true hlt))
  case rxIdleOther b =>
    have hb : b ≠ cfg.syncVal := by simpa [Instr.wellFormed] using hwf
    simp [encode, decode, keyWord, decodeCodecKey, hb]
  case rxGotSyncVersionOk ty => simp [encode, decode, keyWord, decodeCodecKey, versionOk_typeByte]
  case rxGotSyncBadVersion b =>
    have hb : versionOk cfg b = false := by simpa [Instr.wellFormed] using hwf
    simp [encode, decode, keyWord, decodeCodecKey, hb]
  case rxIdleSync | rxReadingLength | rxReadingObjectId | rxReadingInstanceId | rxReadingData | rxAwaitCrc |
      rxIllFormedState =>
    simp [encode, decode, keyWord, decodeCodecKey]

/-- Settles O2, table by table: what a decoder answers determines the word, because every row's operands are all the
bits that are not fixed by the row. -/
theorem encodeOfDecodeGivesTheWord : Obligations.EncodeOfDecodeGivesTheWord := by
  intro cfg w i _ hversion h
  cases w with
  | action w =>
    obtain ⟨c, b, rfl⟩ := exists_eq_code_append w
    obtain ⟨hbare, rfl⟩ := decodeAction_eq_ok h
    exact encode_actionRow cfg hbare
  | crcPort w =>
    obtain rfl := Except.ok.inj h
    exact congrArg CodeWord.crcPort (append_extractLsb' (n := 8) (m := 8) w)
  | descriptor d =>
    change decodeDescriptor d = .ok i at h
    rcases decodeDescriptor_cases d with ⟨k, o, x, rfl, e⟩ | ⟨hkind, e⟩ | ⟨hkind, e⟩ | e <;> rw [e] at h
    · obtain rfl := Except.ok.inj h
      exact encode_extInstr cfg k o x
    · obtain rfl := Except.ok.inj h
      exact congrArg CodeWord.descriptor (append_of_extractLsb'_eq (n := 4) (m := 28) hkind)
    · obtain rfl := Except.ok.inj h
      exact congrArg CodeWord.descriptor
        (append_of_extractLsb'_eq (n := 1) (m := 31) (eight_le_descKindCode_iff.mp hkind))
    · cases h
  | msgType b =>
    obtain rfl := Except.ok.inj h
    exact encode_decodeMsgType (hversion b rfl)
  | codecKey w =>
    obtain ⟨c, b, rfl⟩ := exists_eq_code_append w
    obtain rfl := Except.ok.inj h
    exact encode_decodeCodecKey cfg c b

/-- Settles O3: six closed evaluations of the decoder. -/
theorem spelledWordsDecodeToTheirRows : Obligations.SpelledWordsDecodeToTheirRows :=
  ⟨rfl, rfl, rfl, by decide, rfl, rfl⟩

/-! ### Words and rows without an effect -/

/-- A step whose word spells no row is refused with the decoder's reason. -/
theorem Machine.step_of_decode_error {s : State} {e : DecodeError} (hcfg : configRefusal s.cfg = none)
    (h : decode s.cfg s.nextWord = .error e) : step s = .refused (decodeRefusal e) := by
  simp [step, hcfg, h]

/-- A step whose row is refused is refused. -/
theorem Machine.step_of_exec_refused {s : State} {i : Instr} {r : Refusal} (hcfg : configRefusal s.cfg = none)
    (h : decode s.cfg s.nextWord = .ok i) (hi : exec i s = .refused r) : step s = .refused r := by
  simp [step, hcfg, h, hi, Result.andThen]

/-- With no reset request the input of a step is the script's head. -/
theorem Machine.nextWord_of_script {s : State} {w : CodeWord} {rest : List CodeWord} (hreq : s.resetReq = false)
    (h : s.script = w :: rest) : s.nextWord = w := by
  simp [State.nextWord, hreq, h]

/-- Settles O4: a bare code with a data byte does not decode, and the codes above the bare ones decode to the reserved
rows, which are refused. -/
theorem reservedActionWordsAreRefused : Obligations.ReservedActionWordsAreRefused := by
  intro s w rest hcfg hreq hscript hw
  obtain ⟨c, b, rfl⟩ := exists_eq_code_append w
  rw [extractLsb'_code_append, extractLsb'_byte_append] at hw
  have hword : s.nextWord = .action (c ++ b) := nextWord_of_script hreq hscript
  by_cases herror : BareCode c ∧ b ≠ 0
  · obtain ⟨hbare, hb⟩ := herror
    refine step_of_decode_error (e := .reservedAction) hcfg ?_
    rw [hword]
    exact decodeAction_of_bareCode hbare hb
  · have hdecode : decode s.cfg s.nextWord = .ok (actionRow c b) := by
      rw [hword]
      exact decodeAction_append (by tauto)
    have hcode : 5 ≤ c.toNat := by
      rcases hw with h | ⟨hne, hb⟩
      · exact h
      · rcases not_bareCode_cases fun hc => herror ⟨hc, hb⟩ with rfl | rfl | rfl | rfl
        · exact absurd rfl hne
        all_goals decide
    exact step_of_exec_refused hcfg hdecode (exec_actionRow_reserved hcode b s)

/-- Settles O5: the refusals are the rows' own meanings, and in state 7 the codec's case on `st` is the fault. -/
theorem reservedRowsStopByName : Obligations.ReservedRowsStopByName := by
  intro s x r r'
  refine ⟨rfl, rfl, rfl, rfl, rfl, fun hfree hst => ⟨?_, ?_⟩⟩
  · simp [exec, execRxByte, State.whenFree, hfree, hst]
  · simp [exec, execRxIllFormedState, State.inCodecState, State.whenFree, hfree, hst]

end Sys2Proof

/-! PROOF. The CRC port (40_crc8_engine.md R101), and whole frames: what the codec does with the bytes of a header, of
`m_iid` and of the data, and with the CRC byte (41_frame_codec.md R130 to R137, 30_encoding.md R70, R79). -/

namespace Sys2Proof.Machine

/-! ### The CRC port (R86, R101) -/

theorem crcStep_self (a : Byte) : crcStep a a = crcTable 0 := congrArg crcTable BitVec.xor_self

theorem crcTable_zero : crcTable 0 = 0 := by decide

theorem crcStep_zero_left (b : Byte) : crcStep 0 b = crcTable b := congrArg crcTable BitVec.zero_xor

theorem crcStep_zero_right (a : Byte) : crcStep a 0 = crcTable a := congrArg crcTable BitVec.xor_zero

/-- Settles O7: the port drives one output (`execCrcStep`), and every corner case is about the operand `a ^ b` of the
table. -/
theorem crcPortAnswersAndChangesNothingElse : Obligations.CrcPortAnswersAndChangesNothingElse := by
  intro s a b
  refine ⟨rfl, rfl, (crcStep_self a).trans crcTable_zero, crcStep_zero_left b, ?_, ?_, by decide⟩
  · exact (crcStep_zero_right (a ^^^ b)).symm
  · exact (crcStep_zero_left (a ^^^ b)).symm

/-! ### The VALID step (R136, R137) -/

@[simp] theorem State.treatMessage_cfg (s : State) (k : MsgKind) : (s.treatMessage k).cfg = s.cfg := by
  cases k <;> rfl

/-- R137: OBJ_ACK alone appends to `txq`, and nothing else of the block changes. -/
theorem treatMessage_blk (s : State) (k : MsgKind) :
    (s.treatMessage k).blk =
      { s.blk with txq := s.blk.txq ++ if k = .objAck then ackFrame s.cfg s.blk.mOid else [] } := by
  cases k <;> simp [State.treatMessage]

@[simp] theorem State.acceptFrame_cfg (s : State) (b : Byte) : (s.acceptFrame b).cfg = s.cfg := by
  simp [State.acceptFrame]

/-- The whole block after the trailing CRC byte of a good frame. -/
theorem acceptFrame_blk (s : State) (b : Byte) :
    (s.acceptFrame b).blk = { s.blk with
      mCrc := b, st := .idle, held := true,
      txq := s.blk.txq ++ if loNibble s.blk.mType = s.cfg.typeObjAck then ackFrame s.cfg s.blk.mOid else [] } := by
  simp [State.acceptFrame, treatMessage_blk]

theorem exec_rxByte_acc {s : State} (hfree : s.blk.held = false) (hst : s.blk.st = .awaitCrc) :
    exec (.rxByte s.blk.acc) s = .next (s.acceptFrame s.blk.acc) := by
  simp [exec, execRxByte, State.whenFree, hfree, hst, State.takeCrc]

/-- Settles O26: the VALID step of an OBJ_ACK frame appends `ackFrame` (`acceptFrame_blk`). -/
theorem acknowledgementFrameIsNineBytes : Obligations.AcknowledgementFrameIsNineBytes := by
  intro s hfree hst hack
  refine ⟨s.acceptFrame s.blk.acc, ackFrame s.cfg s.blk.mOid, exec_rxByte_acc hfree hst, ?_, rfl, rfl, rfl⟩
  rw [acceptFrame_blk]
  exact congrArg (s.blk.txq ++ ·) (if_pos hack)

/-! ### Feeding bytes -/

section Feed

variable {s t : State} {b : Byte} {bs : List Byte}

@[simp] theorem feed_nil (s : State) : feed [] s = .next s := rfl

theorem feed_cons_of_next (h : exec (.rxByte b) s = .next t) : feed (b :: bs) s = feed bs t := by
  simp [feed, h, Result.andThen]

theorem feed_append_of_next {bs' : List Byte} (h : feed bs s = .next t) : feed (bs ++ bs') s = feed bs' t := by
  induction bs generalizing s with
  | nil => cases h; rfl
  | cons b bs ih =>
    obtain ⟨u, hu, ht⟩ := andThen_eq_next_iff.mp h
    rw [List.cons_append, feed_cons_of_next hu, ih ht]

/-- R77, R136: the CRC byte that equals the accumulator completes the frame. -/
theorem feed_withCrc (h : feed bs s = .next t) (hfree : t.blk.held = false) (hst : t.blk.st = .awaitCrc)
    (hacc : t.blk.acc = crcFold 0 bs) : feed (withCrc bs false) s = .next (t.acceptFrame (crcFold 0 bs)) := by
  have hcrc := exec_rxByte_acc hfree hst
  rw [hacc] at hcrc
  exact (feed_append_of_next h).trans (feed_cons_of_next hcrc)

end Feed

/-! ### One byte inside a frame -/

/-- A codec step that goes on with the frame: it writes the block and gives no verdict. -/
abbrev State.goOnWith (s : State) (x : Block) : State := { s with blk := x, out := verdictOutputs .none }

@[simp] theorem State.goOnWith_goOnWith (s : State) (x y : Block) : (s.goOnWith x).goOnWith y = s.goOnWith y := rfl

section Byte

variable {s : State} (hfree : s.blk.held = false)
include hfree

/-- R130. -/
theorem exec_rxByte_sync (hst : s.blk.st = .idle) :
    exec (.rxByte s.cfg.syncVal) s = .next (s.startFrame s.cfg.syncVal) := by
  simp [exec, execRxByte, State.whenFree, hfree, hst]

/-- R131. -/
theorem exec_rxByte_type (hst : s.blk.st = .gotSync) (ty : Nibble) :
    exec (.rxByte (typeByte s.cfg.version ty)) s = .next (s.acceptType (typeByte s.cfg.version ty)) := by
  simp [exec, execRxByte, State.whenFree, hfree, hst, versionOk_typeByte]

/-- R132. -/
theorem exec_rxByte_readingLength (hst : s.blk.st = .readingLength) (b : Byte) :
    exec (.rxByte b) s = .next (s.takeLength b) := by
  simp [exec, execRxByte, State.whenFree, hfree, hst]

/-- R133. -/
theorem exec_rxByte_readingObjectId (hst : s.blk.st = .readingObjectId) (b : Byte) :
    exec (.rxByte b) s = .next (s.takeObjectId b) := by
  simp [exec, execRxByte, State.whenFree, hfree, hst]

/-- R134. -/
theorem exec_rxByte_readingInstanceId (hst : s.blk.st = .readingInstanceId) (b : Byte) :
    exec (.rxByte b) s = .next (s.takeInstanceId b) := by
  simp [exec, execRxByte, State.whenFree, hfree, hst]

/-- R135. -/
theorem exec_rxByte_readingData (hst : s.blk.st = .readingData) (b : Byte) :
    exec (.rxByte b) s = s.takeData b := by
  simp [exec, execRxByte, State.whenFree, hfree, hst]

end Byte

/-! ### A register from its bytes, least significant first (R132 to R134) -/

theorem half_of_bytes (v : Half) : placeHalf (byteOfHalf v 0) 0 ||| placeHalf (byteOfHalf v 1) 1 = v := by
  simp only [byteOfHalf, placeHalf]
  ext i hi
  simp
  grind

theorem word_of_bytes (v : Word) :
    placeWord (byteOfWord v 0) 0 ||| placeWord (byteOfWord v 1) 1 ||| placeWord (byteOfWord v 2) 2 |||
      placeWord (byteOfWord v 3) 3 = v := by
  simp only [byteOfWord, placeWord]
  ext i hi
  simp
  grind

/-! ### The bytes of a frame (R70) -/

/-- The fields up to the object id. -/
def frameHeader (cfg : Config) (ty : Nibble) (len : Half) (oid : Word) : List Byte :=
  [cfg.syncVal, typeByte cfg.version ty] ++ ([byteOfHalf len 0, byteOfHalf len 1] ++
    [byteOfWord oid 0, byteOfWord oid 1, byteOfWord oid 2, byteOfWord oid 3])

theorem longFrameBytes_eq (cfg : Config) (ty : Nibble) (len : Half) (oid : Word) (iid : Half) (data : List Byte) :
    longFrameBytes cfg ty len oid iid data =
      frameHeader cfg ty len oid ++ ([byteOfHalf iid 0, byteOfHalf iid 1] ++ data) := rfl

/-! ### Runs of cells -/

/-- Successive bytes written to the cells from `i` on. -/
def storeWriteFrom (i : Nat) : List Byte → List Host.Cell → List Host.Cell
  | [], m => m
  | b :: bs, m => storeWriteFrom (i + 1) bs (storeWrite i b m)

/-- Below `i`, and past the last byte, every cell reads as before. -/
theorem storeRead_storeWriteFrom_outside {i j : Nat} {bs : List Byte} (m : List Host.Cell)
    (h : j < i ∨ i + bs.length ≤ j) : storeRead j (storeWriteFrom i bs m) = storeRead j m := by
  induction bs generalizing i m with
  | nil => rfl
  | cons b bs ih =>
    rw [List.length_cons] at h
    rw [storeWriteFrom, ih _ (by omega), storeRead_storeWrite_other (by omega)]

theorem storeRead_storeWriteFrom {i k : Nat} {bs : List Byte} (m : List Host.Cell) (h : k < bs.length) :
    storeRead (i + k) (storeWriteFrom i bs m) = some bs[k] := by
  induction bs generalizing i k m with
  | nil => cases h
  | cons b bs ih =>
    rw [storeWriteFrom]
    cases k with
    | zero =>
      rw [Nat.add_zero, storeRead_storeWriteFrom_outside _ (by omega), storeRead_storeWrite_same]
      rfl
    | succ k =>
      have hi : i + (k + 1) = i + 1 + k := by omega
      rw [hi]
      exact ih _ (Nat.lt_of_succ_lt_succ h)

/-! ### The fields of a frame, each from its first byte to its last -/

section Fields

variable {s : State} (hfree : s.blk.held = false)
include hfree

/-- R130, R131: the sync byte and a msg_type byte. -/
theorem feed_sync_type (hst : s.blk.st = .idle) (ty : Nibble) :
    feed [s.cfg.syncVal, typeByte s.cfg.version ty] s = .next (s.goOnWith { s.blk with
      st := .readingLength, acc := crcFold 0 [s.cfg.syncVal, typeByte s.cfg.version ty], cnt := 0,
      mSync := s.cfg.syncVal, mType := typeByte s.cfg.version ty, mLen := 0, mOid := 0, mIid := 0 }) := by
  have htype : exec (.rxByte (typeByte s.cfg.version ty)) (s.startFrame s.cfg.syncVal) = _ :=
    exec_rxByte_type (s := s.startFrame s.cfg.syncVal) hfree rfl ty
  rw [feed_cons_of_next (exec_rxByte_sync hfree hst), feed_cons_of_next htype]
  rfl

theorem feed_length_first (hst : s.blk.st = .readingLength) (hcnt : s.blk.cnt = 0) (b : Byte) (bs : List Byte) :
    feed (b :: bs) s = feed bs (s.goOnWith { s.blk with
      acc := crcStep s.blk.acc b, mLen := b.zeroExtend 16, cnt := 1 }) := by
  rw [feed_cons_of_next (exec_rxByte_readingLength hfree hst b)]
  exact congrArg (feed bs) (if_pos hcnt)

theorem feed_length_last (hst : s.blk.st = .readingLength) (hcnt : s.blk.cnt ≠ 0) (b : Byte)
    (hlen : lenOk (s.blk.mLen ||| placeHalf b 1) = true) (bs : List Byte) :
    feed (b :: bs) s = feed bs (s.goOnWith { s.blk with
      acc := crcStep s.blk.acc b, mLen := s.blk.mLen ||| placeHalf b 1, cnt := 0, st := .readingObjectId }) := by
  rw [feed_cons_of_next (exec_rxByte_readingLength hfree hst b)]
  exact congrArg (feed bs) ((if_neg hcnt).trans (if_pos hlen))

/-- R132. -/
theorem feed_length (hst : s.blk.st = .readingLength) (hcnt : s.blk.cnt = 0) {len : Half} (hlen : lenOk len = true) :
    feed [byteOfHalf len 0, byteOfHalf len 1] s = .next (s.goOnWith { s.blk with
      st := .readingObjectId, acc := crcFold s.blk.acc [byteOfHalf len 0, byteOfHalf len 1], cnt := 0,
      mLen := len }) := by
  have hlow : (byteOfHalf len 0).zeroExtend 16 = placeHalf (byteOfHalf len 0) 0 := (BitVec.shiftLeft_zero _).symm
  rw [feed_length_first hfree hst hcnt, hlow]
  simp [feed_length_last, hfree, hst, half_of_bytes, hlen]

theorem feed_objectId_more (hst : s.blk.st = .readingObjectId) (hcnt : s.blk.cnt + 1 ≠ 4) (b : Byte) (bs : List Byte) :
    feed (b :: bs) s = feed bs (s.goOnWith { s.blk with
      acc := crcStep s.blk.acc b, mOid := s.blk.mOid ||| placeWord b s.blk.cnt.toNat, cnt := s.blk.cnt + 1 }) := by
  rw [feed_cons_of_next (exec_rxByte_readingObjectId hfree hst b)]
  exact congrArg (fun x => feed bs (s.goOnWith x)) (if_neg hcnt)

theorem feed_objectId_last (hst : s.blk.st = .readingObjectId) (hcnt : s.blk.cnt + 1 = 4) (b : Byte) (bs : List Byte) :
    feed (b :: bs) s = feed bs (s.goOnWith { s.blk with
      acc := crcStep s.blk.acc b, mOid := s.blk.mOid ||| placeWord b s.blk.cnt.toNat, cnt := 0,
      st := if s.blk.mLen.toNat = Config.hdrLen then .awaitCrc else .readingInstanceId }) := by
  rw [feed_cons_of_next (exec_rxByte_readingObjectId hfree hst b)]
  exact congrArg (fun x => feed bs (s.goOnWith x)) (if_pos hcnt)

/-- R133. -/
theorem feed_objectId (hst : s.blk.st = .readingObjectId) (hcnt : s.blk.cnt = 0) (hoid : s.blk.mOid = 0) (oid : Word) :
    feed [byteOfWord oid 0, byteOfWord oid 1, byteOfWord oid 2, byteOfWord oid 3] s = .next (s.goOnWith { s.blk with
      st := if s.blk.mLen.toNat = Config.hdrLen then .awaitCrc else .readingInstanceId,
      acc := crcFold s.blk.acc [byteOfWord oid 0, byteOfWord oid 1, byteOfWord oid 2, byteOfWord oid 3], cnt := 0,
      mOid := oid }) := by
  simp [feed_objectId_more, feed_objectId_last, hfree, hst, hcnt, hoid, word_of_bytes]

theorem feed_instanceId_more (hst : s.blk.st = .readingInstanceId) (hcnt : s.blk.cnt + 1 ≠ 2) (b : Byte)
    (bs : List Byte) :
    feed (b :: bs) s = feed bs (s.goOnWith { s.blk with
      acc := crcStep s.blk.acc b, mIid := s.blk.mIid ||| placeHalf b s.blk.cnt.toNat, cnt := s.blk.cnt + 1 }) := by
  rw [feed_cons_of_next (exec_rxByte_readingInstanceId hfree hst b)]
  exact congrArg (fun x => feed bs (s.goOnWith x)) (if_neg hcnt)

theorem feed_instanceId_last (hst : s.blk.st = .readingInstanceId) (hcnt : s.blk.cnt + 1 = 2) (b : Byte)
    (bs : List Byte) :
    feed (b :: bs) s = feed bs (s.goOnWith { s.blk with
      acc := crcStep s.blk.acc b, mIid := s.blk.mIid ||| placeHalf b s.blk.cnt.toNat, cnt := 0,
      st := if dataCount s.cfg s.blk.mLen = 0 then .awaitCrc else .readingData }) := by
  rw [feed_cons_of_next (exec_rxByte_readingInstanceId hfree hst b)]
  exact congrArg (fun x => feed bs (s.goOnWith x)) (if_pos hcnt)

/-- R134. -/
theorem feed_instanceId (hst : s.blk.st = .readingInstanceId) (hcnt : s.blk.cnt = 0) (hiid : s.blk.mIid = 0)
    (iid : Half) :
    feed [byteOfHalf iid 0, byteOfHalf iid 1] s = .next (s.goOnWith { s.blk with
      st := if dataCount s.cfg s.blk.mLen = 0 then .awaitCrc else .readingData,
      acc := crcFold s.blk.acc [byteOfHalf iid 0, byteOfHalf iid 1], cnt := 0, mIid := iid }) := by
  simp [feed_instanceId_more, feed_instanceId_last, hfree, hst, hcnt, hiid, half_of_bytes]

theorem feed_data_more (hst : s.blk.st = .readingData) (hcap : s.blk.cnt.toNat < 255)
    (hcnt : (s.blk.cnt + 1).toNat ≠ dataCount s.cfg s.blk.mLen) (b : Byte) (bs : List Byte) :
    feed (b :: bs) s = feed bs (s.goOnWith { s.blk with
      acc := crcStep s.blk.acc b, data := storeWrite s.blk.cnt.toNat b s.blk.data, cnt := s.blk.cnt + 1 }) := by
  refine feed_cons_of_next ((exec_rxByte_readingData hfree hst b).trans (takeData_eq_next_iff.mpr ⟨hcap, ?_⟩))
  rw [if_neg hcnt]
  rfl

theorem feed_data_last (hst : s.blk.st = .readingData) (hcap : s.blk.cnt.toNat < 255)
    (hcnt : (s.blk.cnt + 1).toNat = dataCount s.cfg s.blk.mLen) (b : Byte) (bs : List Byte) :
    feed (b :: bs) s = feed bs (s.goOnWith { s.blk with
      acc := crcStep s.blk.acc b, data := storeWrite s.blk.cnt.toNat b s.blk.data, cnt := 0, st := .awaitCrc }) := by
  refine feed_cons_of_next ((exec_rxByte_readingData hfree hst b).trans (takeData_eq_next_iff.mpr ⟨hcap, ?_⟩))
  rw [if_pos hcnt]
  rfl

/-- R135: the bytes go to the cells from `cnt` on. -/
theorem feed_data {data : List Byte} (hst : s.blk.st = .readingData) (hne : data ≠ [])
    (hcount : s.blk.cnt.toNat + data.length = dataCount s.cfg s.blk.mLen) (hcap : dataCount s.cfg s.blk.mLen ≤ 255) :
    feed data s = .next (s.goOnWith { s.blk with
      st := .awaitCrc, acc := crcFold s.blk.acc data, cnt := 0,
      data := storeWriteFrom s.blk.cnt.toNat data s.blk.data }) := by
  induction data generalizing s with
  | nil => exact absurd rfl hne
  | cons b bs ih =>
    rw [List.length_cons] at hcount
    have hcnt : s.blk.cnt.toNat < 255 := by omega
    have hsucc : (s.blk.cnt + 1).toNat = s.blk.cnt.toNat + 1 := by bv_omega
    cases bs with
    | nil => exact feed_data_last hfree hst hcnt (hsucc.trans hcount) b []
    | cons b' bs =>
      rw [List.length_cons] at hcount
      rw [feed_data_more hfree hst hcnt (by omega), storeWriteFrom, ← hsucc]
      refine ih (s := s.goOnWith _) hfree hst (List.cons_ne_nil b' bs) ?_ hcap
      change (s.blk.cnt + 1).toNat + (bs.length + 1) = dataCount s.cfg s.blk.mLen
      omega

/-- R134, R135: `m_iid` and the data, if there are any. -/
theorem feed_instanceId_data {data : List Byte} (hst : s.blk.st = .readingInstanceId) (hcnt : s.blk.cnt = 0)
    (hiid : s.blk.mIid = 0) (hcount : data.length = dataCount s.cfg s.blk.mLen)
    (hcap : dataCount s.cfg s.blk.mLen ≤ 255) (iid : Half) :
    feed ([byteOfHalf iid 0, byteOfHalf iid 1] ++ data) s = .next (s.goOnWith { s.blk with
      st := .awaitCrc, acc := crcFold s.blk.acc ([byteOfHalf iid 0, byteOfHalf iid 1] ++ data), cnt := 0,
      mIid := iid, data := storeWriteFrom 0 data s.blk.data }) := by
  rw [feed_append_of_next (feed_instanceId hfree hst hcnt hiid iid), crcFold_append]
  by_cases hempty : data = []
  · subst hempty
    have hnone : dataCount s.cfg s.blk.mLen = 0 := hcount.symm
    rw [if_pos hnone]
    rfl
  · have hsome : dataCount s.cfg s.blk.mLen ≠ 0 := by
      rw [← hcount]
      exact fun h => hempty (List.length_eq_zero_iff.mp h)
    rw [if_neg hsome]
    refine feed_data ?_ ?_ hempty ?_ ?_
    exacts [hfree, rfl, (Nat.zero_add _).trans hcount, hcap]

/-- R130 to R133: the fields up to the object id. -/
theorem feed_frameHeader (hst : s.blk.st = .idle) (ty : Nibble) {len : Half} (hlen : lenOk len = true) (oid : Word) :
    feed (frameHeader s.cfg ty len oid) s = .next (s.goOnWith { s.blk with
      st := if len.toNat = Config.hdrLen then .awaitCrc else .readingInstanceId,
      acc := crcFold 0 (frameHeader s.cfg ty len oid), cnt := 0,
      mSync := s.cfg.syncVal, mType := typeByte s.cfg.version ty, mLen := len, mOid := oid, mIid := 0 }) := by
  refine (feed_append_of_next (feed_sync_type hfree hst ty)).trans ?_
  refine (feed_append_of_next (feed_length ?_ ?_ ?_ hlen)).trans (feed_objectId ?_ ?_ ?_ ?_ oid)
  exacts [hfree, rfl, rfl, hfree, rfl, rfl, rfl]

/-- R130 to R135: a frame longer than its header, up to its CRC byte. -/
theorem feed_longFrameBytes (hst : s.blk.st = .idle) (ty : Nibble) {len : Half} (hlen : lenOk len = true)
    (hhdr : len.toNat ≠ Config.hdrLen) (oid : Word) (iid : Half) {data : List Byte}
    (hcount : data.length = dataCount s.cfg len) :
    feed (longFrameBytes s.cfg ty len oid iid data) s = .next (s.goOnWith { s.blk with
      st := .awaitCrc, acc := crcFold 0 (longFrameBytes s.cfg ty len oid iid data), cnt := 0,
      mSync := s.cfg.syncVal, mType := typeByte s.cfg.version ty, mLen := len, mOid := oid, mIid := iid,
      data := storeWriteFrom 0 data s.blk.data }) := by
  rw [longFrameBytes_eq, feed_append_of_next (feed_frameHeader hfree hst ty hlen oid), if_neg hhdr, crcFold_append]
  refine feed_instanceId_data ?_ ?_ ?_ ?_ ?_ ?_ iid
  exacts [hfree, rfl, rfl, rfl, hcount, dataCount_le s.cfg hlen]

end Fields

/-! ### Whole frames with an `m_iid` and data (R70, R89, R122) -/

theorem dataCount_counted {cfg : Config} {len : Half} (h : cfg.lenCountsInstance = true) (hlen : 10 ≤ len.toNat) :
    dataCount cfg len = len.toNat - 10 := by
  simp [dataCount, h, hlen]

theorem dataCount_plain {cfg : Config} {len : Half} (h : cfg.lenCountsInstance = false) :
    dataCount cfg len = len.toNat - 8 := by
  simp [dataCount, h]

/-- The length field of a frame, when its data fit, is an accepted one that counts just these data bytes. -/
theorem payloadLength_spec {cfg : Config} {n : Nat} (hcounted : cfg.lenCountsInstance = true → n ≤ 253)
    (hplain : cfg.lenCountsInstance = false → 1 ≤ n ∧ n ≤ 255) :
    lenOk (payloadLength cfg n) = true ∧ (payloadLength cfg n).toNat ≠ Config.hdrLen ∧
      dataCount cfg (payloadLength cfg n) = n := by
  rw [lenOk_iff]
  cases hlen : cfg.lenCountsInstance with
  | true =>
    have hn := hcounted hlen
    have hnat : (payloadLength cfg n).toNat = 10 + n := by
      simp only [payloadLength, hlen, if_true, BitVec.toNat_ofNat]
      omega
    rw [dataCount_counted hlen (by omega), hnat]
    exact ⟨by omega, by change 10 + n ≠ 8; omega, by omega⟩
  | false =>
    obtain ⟨hpos, hn⟩ := hplain hlen
    have hnat : (payloadLength cfg n).toNat = 8 + n := by
      simp only [payloadLength, hlen, Bool.false_eq_true, if_false, BitVec.toNat_ofNat]
      omega
    rw [dataCount_plain hlen, hnat]
    exact ⟨by omega, by change 8 + n ≠ 8; omega, by omega⟩

/-- R136, R137: such a frame is VALID, whatever its length, and held; of the payload buffer the data's cells alone are
written. -/
theorem exists_feed_longFrame_valid {s : State} (hfree : s.blk.held = false) (hst : s.blk.st = .idle) (ty : Nibble)
    {len : Half} (hlen : lenOk len = true) (hhdr : len.toNat ≠ Config.hdrLen) (oid : Word) (iid : Half)
    {data : List Byte} (hcount : data.length = dataCount s.cfg len) :
    let body := longFrameBytes s.cfg ty len oid iid data
    ∃ t, feed (withCrc body false) s = .next t ∧ t.out = verdictOutputs .valid ∧ t.cfg = s.cfg ∧
      t.blk = { s.blk with
        st := .idle, held := true, acc := crcFold 0 body, cnt := 0, mSync := s.cfg.syncVal,
        mType := typeByte s.cfg.version ty, mLen := len, mOid := oid, mIid := iid, mCrc := crcFold 0 body,
        data := storeWriteFrom 0 data s.blk.data,
        txq := s.blk.txq ++ if ty = s.cfg.typeObjAck then ackFrame s.cfg oid else [] } := by
  intro body
  have hbody := feed_longFrameBytes hfree hst ty hlen hhdr oid iid hcount
  refine ⟨_, feed_withCrc hbody hfree rfl (by simp only [body]), State.acceptFrame_out _ _,
    State.acceptFrame_cfg _ _, ?_⟩
  rw [acceptFrame_blk]
  simp only [loNibble_typeByte, body]

/-- Settles O53: the length field counts the data (`payloadLength_spec`), so the frame is held with them
(`exists_feed_longFrame_valid`); cell `i` of the buffer is data byte `i`, and the cells above are as before. -/
theorem payloadFrameIsReceived : Obligations.PayloadFrameIsReceived := by
  intro s ty oid iid data hfree hst hcounted hplain
  obtain ⟨hlen, hhdr, hcount⟩ := payloadLength_spec hcounted hplain
  obtain ⟨t, hfeed, hout, hcfg, hblk⟩ := exists_feed_longFrame_valid hfree hst ty hlen hhdr oid iid hcount.symm
  refine ⟨t, hfeed, ?_⟩
  rw [hout, hcfg, hblk]
  refine ⟨rfl, rfl, rfl, rfl, rfl, rfl, (rxDataCount_of_ne hhdr).trans hcount, fun i hi => ?_, fun i hi => ?_, rfl, rfl⟩
  · have hcell := storeRead_storeWriteFrom (i := 0) s.blk.data hi
    rwa [Nat.zero_add] at hcell
  · exact storeRead_storeWriteFrom_outside s.blk.data (.inr (by omega))

end Sys2Proof.Machine

/-! PROOF. The CRC engine (40_crc8_engine.md R101 to R105): its table is linear over exclusive-or and one-to-one, and so
is the fold in each of its bytes. -/

namespace Sys2Proof.Machine

/-! ### The table (R102, R103) -/

/-- R103's list and the table built by R102, compared at each of the 256 indices. -/
theorem crcTableEntries_getElem? (i : Byte) : crcTableEntries[i.toNat]? = some (crcTable i) := by
  revert i
  decide

/-- Settles O55: the list is as long as the table and agrees with it everywhere (`crcTableEntries_getElem?`). -/
theorem crcTableIsTheSpecsTable : Obligations.CrcTableIsTheSpecsTable :=
  ⟨by simp only [crcTableEntries, List.length_append, List.length_cons, List.length_nil], crcTableEntries_getElem?⟩

/-! ### The table is linear and one-to-one (R105 items 1 and 2) -/

/-- POLY taken into both of two values goes out again. -/
theorem xor_xor_xor_cancel (u v poly : Byte) : u ^^^ poly ^^^ (v ^^^ poly) = u ^^^ v := by
  rw [BitVec.xor_comm v, ← BitVec.xor_assoc, BitVec.xor_assoc u, BitVec.xor_self, BitVec.xor_zero]

theorem crcRound_xor (poly x y : Byte) : crcRound poly (x ^^^ y) = crcRound poly x ^^^ crcRound poly y := by
  have hshift : (x ^^^ y) <<< 1 = x <<< 1 ^^^ y <<< 1 := BitVec.shiftLeft_xor_distrib x y 1
  simp only [crcRound, BitVec.getLsbD_xor, hshift]
  cases x.getLsbD 7 <;> cases y.getLsbD 7
  · rfl
  · exact BitVec.xor_assoc (x <<< 1) (y <<< 1) poly
  · change x <<< 1 ^^^ y <<< 1 ^^^ poly = x <<< 1 ^^^ poly ^^^ y <<< 1
    ac_rfl
  · exact (xor_xor_xor_cancel (x <<< 1) (y <<< 1) poly).symm

theorem crcRounds_xor (poly : Byte) (n : Nat) (x y : Byte) :
    crcRounds poly n (x ^^^ y) = crcRounds poly n x ^^^ crcRounds poly n y := by
  induction n generalizing x y with
  | zero => rfl
  | succ n ih => rw [crcRounds, crcRound_xor, ih, crcRounds, crcRounds]

theorem crcTable_xor (x y : Byte) : crcTable (x ^^^ y) = crcTable x ^^^ crcTable y := crcRounds_xor Config.poly 8 x y

/-- A round that shifts out a set bit leaves POLY's lowest bit, which is set, so only zero goes to zero. -/
theorem crcRound_eq_zero {poly c : Byte} (hpoly : poly.getLsbD 0 = true) (h : crcRound poly c = 0) : c = 0 := by
  cases htop : c.getLsbD 7 with
  | true =>
    rw [crcRound, if_pos htop] at h
    have hlow : ((c <<< 1) ^^^ poly).getLsbD 0 = true := by
      rw [BitVec.getLsbD_xor, hpoly]
      simp
    rw [h] at hlow
    cases hlow
  | false =>
    rw [crcRound, if_neg (Bool.eq_false_iff.mp htop)] at h
    have hsmall : c.toNat < 128 := by
      have hmsb : c.msb = false := by rw [BitVec.msb_eq_getLsbD_last]; exact htop
      have := BitVec.msb_eq_false_iff_two_mul_lt.mp hmsb
      omega
    bv_omega

theorem crcRounds_eq_zero {poly c : Byte} {n : Nat} (hpoly : poly.getLsbD 0 = true) (h : crcRounds poly n c = 0) :
    c = 0 := by
  induction n generalizing c with
  | zero => exact h
  | succ n ih => exact crcRound_eq_zero hpoly (ih h)

theorem crcTable_injective : Function.Injective crcTable := by
  intro x y h
  have hdiff : crcTable (x ^^^ y) = 0 := by rw [crcTable_xor, h, BitVec.xor_self]; rfl
  exact BitVec.xor_eq_zero_iff.mp (crcRounds_eq_zero rfl hdiff)

theorem crcTable_bijective : Function.Bijective crcTable := Finite.injective_iff_bijective.mp crcTable_injective

/-! ### The fold (R105 items 3 to 5) -/

theorem crcStep_left_injective (b : Byte) : Function.Injective (crcStep · b) := fun _ _ h =>
  BitVec.xor_left_inj b |>.mp (crcTable_injective h)

theorem crcStep_right_injective (a : Byte) : Function.Injective (crcStep a) := fun _ _ h =>
  BitVec.xor_right_inj a |>.mp (crcTable_injective h)

theorem crcFold_left_injective (s : List Byte) : Function.Injective (crcFold · s) := by
  induction s with
  | nil => exact Function.injective_id
  | cons b s ih => exact ih.comp (crcStep_left_injective b)

theorem crcFold_ne_of_byte_ne (a : Byte) (before after : List Byte) {x y : Byte} (h : x ≠ y) :
    crcFold a (before ++ x :: after) ≠ crcFold a (before ++ y :: after) := by
  rw [crcFold_append, crcFold_append, crcFold_cons, crcFold_cons]
  exact (crcFold_left_injective after).ne ((crcStep_right_injective _).ne h)

theorem crcFold_zeros {s : List Byte} (h : ∀ b ∈ s, b = 0) : crcFold 0 s = 0 := by
  induction s with
  | nil => rfl
  | cons b s ih =>
    obtain ⟨rfl, hs⟩ := List.forall_mem_cons.mp h
    rw [crcFold_cons, crcStep_self, crcTable_zero]
    exact ih hs

theorem crcFold_concat_self (a : Byte) (s : List Byte) : crcFold a (s ++ [crcFold a s]) = 0 := by
  rw [crcFold_concat, crcStep_self, crcTable_zero]

/-- Settles O6: the table's two properties come from those of one round (`crcRound_xor`, `crcRound_eq_zero`); that no
change of one byte is lost, from its being one-to-one. -/
theorem crcTableAndFoldProperties : Obligations.CrcTableAndFoldProperties :=
  ⟨⟨crcTable_zero, crcTable_bijective⟩, crcTable_xor, fun _ => crcFold_zeros,
    fun a before after _ _ => crcFold_ne_of_byte_ne a before after, crcFold_concat_self 0⟩

end Sys2Proof.Machine

/-! PROOF. Corrupted frames (41_frame_codec.md R162): a change of one byte that leaves the framing alone is told by the
CRC byte, whatever the byte. -/

namespace Sys2Proof.Machine

/-! ### Two lists of bytes that differ in one place -/

/-- R105 item 4, the byte given by its place. -/
theorem crcFold_ne_of_differ_at (a : Byte) {l l' : List Byte} {k : Nat} (hlen : l'.length = l.length)
    (hk : k < l.length) (hdiff : ∀ j, j < l.length → (l'[j]? = l[j]? ↔ j ≠ k)) : crcFold a l' ≠ crcFold a l := by
  have hk' : k < l'.length := hlen ▸ hk
  have hsame (j : Nat) (hj : j ≠ k) : l'[j]? = l[j]? := by
    by_cases hin : j < l.length
    · exact (hdiff j hin).mpr hj
    · rw [List.getElem?_eq_none (by omega), List.getElem?_eq_none (by omega)]
  have hbefore : l'.take k = l.take k := by
    refine List.ext_getElem? fun j => ?_
    simp only [List.getElem?_take]
    split_ifs with hj
    · exact hsame j (by omega)
    · rfl
  have hafter : l'.drop (k + 1) = l.drop (k + 1) := by
    refine List.ext_getElem? fun j => ?_
    rw [List.getElem?_drop, List.getElem?_drop]
    exact hsame (k + 1 + j) (by omega)
  have hbyte : l'[k] ≠ l[k] := by
    intro h
    refine (hdiff k hk).mp ?_ rfl
    rw [List.getElem?_eq_getElem hk, List.getElem?_eq_getElem hk', h]
  have hsplit (m : List Byte) (hm : k < m.length) : m = m.take k ++ m[k] :: m.drop (k + 1) := by
    rw [← List.drop_eq_getElem_cons hm, List.take_append_drop]
  rw [hsplit l' hk', hsplit l hk, hbefore, hafter]
  exact crcFold_ne_of_byte_ne a _ _ hbyte

/-- R105 items 4 and 5: a frame with its CRC byte folds to zero, so one that differs from it in one byte does not, and
its last byte is not the CRC of the others. -/
theorem corrupted_crc_ne {body body' : List Byte} {crc' : Byte} {k : Nat} (hlen : body'.length = body.length)
    (hk : k < body.length + 1)
    (hdiff : ∀ j, j < body.length + 1 → ((body' ++ [crc'])[j]? = (withCrc body false)[j]? ↔ j ≠ k)) :
    crc' ≠ crcFold 0 body' := by
  rintro rfl
  have hlength : (withCrc body false).length = body.length + 1 := List.length_append
  refine crcFold_ne_of_differ_at 0 (l := withCrc body false) (l' := body' ++ [crcFold 0 body']) (k := k) ?_ ?_ ?_ ?_
  · rw [hlength, List.length_append, hlen, List.length_singleton]
  · rwa [hlength]
  · rwa [hlength]
  · exact (crcFold_concat_self 0 body').trans (crcFold_concat_self 0 body).symm

/-! ### The INVALID step (R136) -/

theorem exec_rxByte_ne_acc {s : State} {b : Byte} (hfree : s.blk.held = false) (hst : s.blk.st = .awaitCrc)
    (hb : b ≠ s.blk.acc) : exec (.rxByte b) s = .next (s.rejectFrame b) := by
  simp [exec, execRxByte, State.whenFree, hfree, hst, State.takeCrc, hb]

/-- R77, R136: a last byte that is not the CRC of those before it rejects the frame. -/
theorem feed_badCrc {s t : State} {b : Byte} {bs : List Byte} (h : feed bs s = .next t) (hfree : t.blk.held = false)
    (hst : t.blk.st = .awaitCrc) (hacc : t.blk.acc = crcFold 0 bs) (hb : b ≠ crcFold 0 bs) :
    feed (bs ++ [b]) s = .next (t.rejectFrame b) := by
  rw [← hacc] at hb
  exact (feed_append_of_next h).trans (feed_cons_of_next (exec_rxByte_ne_acc hfree hst hb))

/-! ### Whole frames -/

/-- R79: a header-only frame is one of length 8. -/
theorem headerBytes_eq (cfg : Config) (ty : Nibble) (oid : Word) :
    headerBytes cfg ty oid = frameHeader cfg ty 8 oid := rfl

/-- R130 to R133: a header-only frame, up to its CRC byte. -/
theorem feed_headerBytes {s : State} (hfree : s.blk.held = false) (hst : s.blk.st = .idle) (ty : Nibble) (oid : Word) :
    feed (headerBytes s.cfg ty oid) s = .next (s.goOnWith { s.blk with
      st := .awaitCrc, acc := crcFold 0 (headerBytes s.cfg ty oid), cnt := 0,
      mSync := s.cfg.syncVal, mType := typeByte s.cfg.version ty, mLen := 8, mOid := oid, mIid := 0 }) := by
  have h := feed_frameHeader hfree hst ty (len := 8) (by decide) oid
  rwa [if_pos (by rfl)] at h

/-- Settles O54: the nine bytes are framed as a header-only frame (`feed_headerBytes`), and the last of them is not the
CRC of the others (`corrupted_crc_ne`). -/
theorem corruptedHeaderFrameIsInvalid : Obligations.CorruptedHeaderFrameIsInvalid := by
  intro s ty ty' oid oid' crc' k hfree hst hk hdiff
  have hcrc : crc' ≠ crcFold 0 (headerBytes s.cfg ty' oid') :=
    corrupted_crc_ne (body := headerBytes s.cfg ty oid) rfl hk hdiff
  have hbody := feed_headerBytes hfree hst ty' oid'
  exact ⟨_, feed_badCrc hbody hfree rfl (by simp only) hcrc, rfl, hfree, rfl, rfl, rfl, rfl⟩

theorem longFrameBytes_length (cfg : Config) (ty : Nibble) (len : Half) (oid : Word) (iid : Half) (data : List Byte) :
    (longFrameBytes cfg ty len oid iid data).length = 10 + data.length := by
  rw [longFrameBytes, List.length_append]
  rfl

/-- R122: the data bytes of a frame with an `m_iid`, counted without the case of length 9. -/
theorem dataCount_eq (cfg : Config) (len : Half) :
    dataCount cfg len = if cfg.lenCountsInstance then len.toNat - 10 else len.toNat - 8 := by
  rw [dataCount]
  split_ifs <;> omega

/-- Settles O59: the bytes are framed by their length field as one with an `m_iid` (`feed_longFrameBytes`), which
writes the data's cells alone, and the last byte is not the CRC of the others (`corrupted_crc_ne`). -/
theorem corruptedPayloadFrameIsInvalid : Obligations.CorruptedPayloadFrameIsInvalid := by
  intro s ty ty' len oid oid' iid iid' data data' crc' k hfree hst hlong hmax hcount hcount' hk hdiff
  have hbytes : (longFrameBytes s.cfg ty len oid iid data).length + 1 = 11 + data.length := by
    rw [longFrameBytes_length]
    omega
  rw [← hbytes] at hk hdiff
  have hcrc : crc' ≠ crcFold 0 (longFrameBytes s.cfg ty' len oid' iid' data') :=
    corrupted_crc_ne (by rw [longFrameBytes_length, longFrameBytes_length, hcount']) hk hdiff
  have hlen : lenOk len = true := lenOk_iff.mpr ⟨by omega, hmax⟩
  have hhdr : len.toNat ≠ Config.hdrLen := Nat.ne_of_gt hlong
  have hbody := feed_longFrameBytes hfree hst ty' hlen hhdr oid' iid'
    (hcount'.trans (hcount.trans (dataCount_eq s.cfg len).symm))
  refine ⟨_, feed_badCrc hbody hfree rfl (by simp only) hcrc, rfl, hfree, rfl, rfl, rfl, fun i hi => ?_⟩
  exact storeRead_storeWriteFrom_outside s.blk.data (.inr (by omega))

end Sys2Proof.Machine

/-! PROOF. What every step keeps of the CRC (`CrcFolded`): 41_frame_codec.md R124, R130 to R138. -/

namespace Sys2Proof.Machine

/-! ### The bytes of a register, least significant first (30_encoding.md R70) -/

/-- The first `n` bytes of a register. -/
def registerBytes {w : Nat} (v : BitVec w) (n : Nat) : List Byte := (List.range n).map fun k => v.extractLsb' (8 * k) 8

theorem lenBytes_eq (x : Block) : lenBytes x = registerBytes x.mLen 2 := rfl
theorem oidBytes_eq (x : Block) : oidBytes x = registerBytes x.mOid 4 := rfl
theorem iidBytes_eq (x : Block) : iidBytes x = registerBytes x.mIid 2 := rfl

theorem take_registerBytes {w : Nat} (v : BitVec w) {k n : Nat} (h : k ≤ n) :
    (registerBytes v n).take k = registerBytes v k := by
  rw [registerBytes, ← List.map_take, List.take_range, Nat.min_eq_left h, registerBytes]

/-- A byte placed at byte `k` leaves the bytes below as they are. -/
theorem extractLsb'_or_placed_below {w : Nat} (v : BitVec w) (b : Byte) {j k : Nat} (h : j < k) :
    (v ||| b.zeroExtend w <<< (8 * k)).extractLsb' (8 * j) 8 = v.extractLsb' (8 * j) 8 := by
  refine BitVec.eq_of_getLsbD_eq fun i hi => ?_
  have hbelow : 8 * j + i < 8 * k := by omega
  simp [hi, hbelow]

/-- A byte placed above a value of `k` bytes is byte `k` of the result. -/
theorem extractLsb'_or_placed_at {w : Nat} {v : BitVec w} (b : Byte) {k : Nat} (hv : v.toNat < 2 ^ (8 * k))
    (hw : 8 * (k + 1) ≤ w) : (v ||| b.zeroExtend w <<< (8 * k)).extractLsb' (8 * k) 8 = b := by
  refine BitVec.eq_of_getLsbD_eq fun i hi => ?_
  have hin : 8 * k + i < w := by omega
  have hclear : v.getLsbD (8 * k + i) = false :=
    Nat.testBit_lt_two_pow (hv.trans_le (Nat.pow_le_pow_right (by omega) (by omega)))
  rw [BitVec.getLsbD_extractLsb', BitVec.getLsbD_or, hclear]
  simp [hi, hin]

/-- R132 to R134: a byte placed above a value of `k` bytes is one more of the register's bytes. -/
theorem registerBytes_or_placed {w : Nat} {v : BitVec w} (b : Byte) {k : Nat} (hv : v.toNat < 2 ^ (8 * k))
    (hw : 8 * (k + 1) ≤ w) :
    registerBytes (v ||| b.zeroExtend w <<< (8 * k)) (k + 1) = registerBytes v k ++ [b] := by
  have hbelow : registerBytes (v ||| b.zeroExtend w <<< (8 * k)) k = registerBytes v k :=
    List.map_congr_left fun j hj => extractLsb'_or_placed_below v b (List.mem_range.mp hj)
  rw [registerBytes, List.range_succ, List.map_append, List.map_singleton, extractLsb'_or_placed_at b hv hw]
  exact congrArg (· ++ [b]) hbelow

/-- The frame's bytes up to and including a register's first `k`, and the byte placed next. -/
theorem append_registerBytes_placeHalf (l : List Byte) {v : Half} (b : Byte) {k : Nat} (hv : v.toNat < 2 ^ (8 * k))
    (hk : k < 2) : l ++ registerBytes (v ||| placeHalf b k) (k + 1) = l ++ registerBytes v k ++ [b] := by
  rw [List.append_assoc, placeHalf, registerBytes_or_placed b hv (by omega)]

theorem append_registerBytes_placeWord (l : List Byte) {v : Word} (b : Byte) {k : Nat} (hv : v.toNat < 2 ^ (8 * k))
    (hk : k < 4) : l ++ registerBytes (v ||| placeWord b k) (k + 1) = l ++ registerBytes v k ++ [b] := by
  rw [List.append_assoc, placeWord, registerBytes_or_placed b hv (by omega)]

/-- R135: a cell written after `n` data bytes is one more of them. -/
theorem dataBytes_storeWrite (m : List Host.Cell) (n : Nat) (b : Byte) :
    dataBytes (storeWrite n b m) (n + 1) = dataBytes m n ++ [b] := by
  have hbelow : dataBytes (storeWrite n b m) n = dataBytes m n :=
    List.map_congr_left fun j hj => by rw [storeRead_storeWrite_other (List.mem_range.mp hj).ne]
  rw [dataBytes, List.range_succ, List.map_append, List.map_singleton, storeRead_storeWrite_same]
  exact congrArg (· ++ [b]) hbelow

/-! ### The bytes covered, codec state by codec state (R124) -/

section Covered

variable {cfg : Config} {x : Block}

theorem coveredBytes_gotSync (h : x.st = .gotSync) : coveredBytes cfg x = [x.mSync] := by
  rw [coveredBytes, h]

theorem coveredBytes_readingLength (h : x.st = .readingLength) (hcnt : x.cnt.toNat ≤ 2) :
    coveredBytes cfg x = [x.mSync, x.mType] ++ registerBytes x.mLen x.cnt.toNat := by
  rw [coveredBytes, h, ← take_registerBytes x.mLen hcnt]
  rfl

theorem coveredBytes_readingObjectId (h : x.st = .readingObjectId) (hcnt : x.cnt.toNat ≤ 4) :
    coveredBytes cfg x = [x.mSync, x.mType] ++ registerBytes x.mLen 2 ++ registerBytes x.mOid x.cnt.toNat := by
  rw [coveredBytes, h, ← take_registerBytes x.mOid hcnt]
  rfl

theorem coveredBytes_readingInstanceId (h : x.st = .readingInstanceId) (hcnt : x.cnt.toNat ≤ 2) :
    coveredBytes cfg x = [x.mSync, x.mType] ++ registerBytes x.mLen 2 ++ registerBytes x.mOid 4 ++
      registerBytes x.mIid x.cnt.toNat := by
  rw [coveredBytes, h, ← take_registerBytes x.mIid hcnt]
  rfl

theorem coveredBytes_readingData (h : x.st = .readingData) :
    coveredBytes cfg x = [x.mSync, x.mType] ++ registerBytes x.mLen 2 ++ registerBytes x.mOid 4 ++
      registerBytes x.mIid 2 ++ dataBytes x.data x.cnt.toNat := by
  rw [coveredBytes, h]
  rfl

/-- A header-only frame ends with the object id. -/
theorem coveredBytes_awaitCrc_header (h : x.st = .awaitCrc) (hlen : x.mLen.toNat = Config.hdrLen) :
    coveredBytes cfg x = [x.mSync, x.mType] ++ registerBytes x.mLen 2 ++ registerBytes x.mOid 4 := by
  rw [coveredBytes, h]
  exact (congrArg _ (if_pos hlen)).trans (List.append_nil _)

/-- Any other frame goes on with `m_iid` and the data. -/
theorem coveredBytes_awaitCrc_long (h : x.st = .awaitCrc) (hlen : x.mLen.toNat ≠ Config.hdrLen) :
    coveredBytes cfg x = [x.mSync, x.mType] ++ registerBytes x.mLen 2 ++ registerBytes x.mOid 4 ++
      registerBytes x.mIid 2 ++ dataBytes x.data (dataCount cfg x.mLen) := by
  rw [coveredBytes, h]
  exact (congrArg _ (if_neg hlen)).trans (List.append_assoc _ _ _).symm

end Covered

/-! ### Writes that keep the CRC folded -/

theorem CrcFolded.acc {s : State} (hc : CrcFolded s) (hidle : s.blk.st ≠ .idle) (hill : s.blk.st ≠ .illFormed) :
    s.blk.acc = crcFold 0 (coveredBytes s.cfg s.blk) := by
  obtain ⟨hacc, -⟩ := hc
  exact hacc hidle hill

@[simp] theorem crcFolded_setOut {s : State} {o : Outputs} : CrcFolded (s.setOut o) ↔ CrcFolded s := Iff.rfl
@[simp] theorem crcFolded_addTrace {s : State} {c : Cause} : CrcFolded (s.addTrace c) ↔ CrcFolded s := Iff.rfl
@[simp] theorem crcFolded_emitVerdict {s : State} {v : Verdict} : CrcFolded (s.emitVerdict v) ↔ CrcFolded s := Iff.rfl
@[simp] theorem crcFolded_consume {s : State} : CrcFolded s.consume ↔ CrcFolded s := Iff.rfl

/-- R177: the CRC does not cover the slots. -/
@[simp] theorem crcFolded_writeSlot {s : State} {i : Nat} {v : Word} : CrcFolded (s.writeSlot i v) ↔ CrcFolded s :=
  Iff.rfl

/-- R137: an acknowledgement writes `txq` only, which the CRC of the frame does not cover. -/
theorem crcFolded_treatMessage {s : State} {k : MsgKind} : CrcFolded (s.treatMessage k) ↔ CrcFolded s := by
  cases k <;> exact Iff.rfl

/-- While no message is held, `CrcFolded` is about the accumulator only. -/
theorem crcFolded_of_free {s : State} (hfree : s.blk.held = false)
    (hacc : s.blk.st ≠ .idle → s.blk.acc = crcFold 0 (coveredBytes s.cfg s.blk)) : CrcFolded s :=
  ⟨fun hne _ => hacc hne, fun hheld => absurd (hfree.symm.trans hheld) (by decide)⟩

/-- With no frame in progress and no message held there is nothing under the CRC. -/
theorem crcFolded_of_idle {s : State} (hst : s.blk.st = .idle) (hfree : s.blk.held = false) : CrcFolded s :=
  crcFolded_of_free hfree fun hne => absurd hst hne

/-- R121, R124: a byte that is folded and is the next of the bytes covered keeps the accumulator their CRC. -/
theorem crcFolded_of_next_byte {s : State} {x : Block} {b : Byte} {l : List Byte} (hl : s.blk.acc = crcFold 0 l)
    (hacc : x.acc = crcStep s.blk.acc b) (hfree : x.held = false) (hbytes : coveredBytes s.cfg x = l ++ [b]) :
    CrcFolded ((s.setBlk x).emitVerdict .none) := by
  refine crcFolded_of_free hfree fun _ => ?_
  calc x.acc = crcStep (crcFold 0 l) b := by rw [hacc, hl]
    _ = crcFold 0 (coveredBytes s.cfg x) := by rw [hbytes, crcFold_concat]

/-! ### The codec, state by state (41_frame_codec.md R130 to R136) -/

/-- R130: the fold begins with the sync byte. -/
theorem crcFolded_startFrame {s : State} (hfree : s.blk.held = false) (b : Byte) : CrcFolded (s.startFrame b) :=
  crcFolded_of_free hfree fun _ => rfl

section Codec

variable {s : State} (hc : CrcFolded s) (hfree : s.blk.held = false)
include hc hfree

/-- R131, the version matches. -/
theorem CrcFolded.acceptType (b : Byte) (hst : s.blk.st = .gotSync) : CrcFolded (s.acceptType b) := by
  have hl := hc.acc (by simp [hst]) (by simp [hst])
  rw [coveredBytes_gotSync hst] at hl
  exact crcFolded_of_next_byte hl rfl hfree (coveredBytes_readingLength rfl (by simp))

variable (hs : Sound s)
include hs

/-- R132: after the second byte of an accepted length the object id begins, with no byte of it taken yet. -/
theorem CrcFolded.takeLength (b : Byte) (hst : s.blk.st = .readingLength) : CrcFolded (s.takeLength b) := by
  obtain ⟨-, -, -, hcnt⟩ := (frameInProgress_readingLength_iff hst).mp hs.frame
  have hl := hc.acc (by simp [hst]) (by simp [hst])
  rcases takeLength_cases s b with ⟨hzero, e⟩ | ⟨hone, -, e⟩ | ⟨-, -, e⟩ <;> rw [e]
  · have hlen : s.blk.mLen = 0 := by simpa [hzero] using hcnt
    have hfirst : b.zeroExtend 16 = (0 : Half) ||| placeHalf b 0 := by simp [placeHalf]
    rw [coveredBytes_readingLength hst (by simp [hzero]), hzero, hlen] at hl
    refine crcFolded_of_next_byte hl rfl hfree ((coveredBytes_readingLength (by exact hst) (by simp)).trans ?_)
    rw [hfirst]
    exact append_registerBytes_placeHalf _ b (by simp) (by omega)
  · obtain ⟨hcnt, hlow⟩ := hcnt.resolve_left fun ⟨hzero, _⟩ => hone hzero
    rw [coveredBytes_readingLength hst (by simp [hcnt]), hcnt] at hl
    refine crcFolded_of_next_byte hl rfl hfree ((coveredBytes_readingObjectId rfl (by simp)).trans ?_)
    exact (List.append_nil _).trans (append_registerBytes_placeHalf _ b hlow (by omega))
  · exact crcFolded_of_idle rfl hfree

/-- R133: after the fourth byte the frame is complete, or `m_iid` begins. -/
theorem CrcFolded.takeObjectId (b : Byte) (hst : s.blk.st = .readingObjectId) : CrcFolded (s.takeObjectId b) := by
  obtain ⟨-, -, -, hcnt, hoid⟩ := (frameInProgress_readingObjectId_iff hst).mp hs.frame
  have hl := hc.acc (by simp [hst]) (by simp [hst])
  rw [coveredBytes_readingObjectId hst hcnt.le] at hl
  have hsucc : (s.blk.cnt + 1).toNat = s.blk.cnt.toNat + 1 := by bv_omega
  have hbyte := append_registerBytes_placeWord ([s.blk.mSync, s.blk.mType] ++ registerBytes s.blk.mLen 2) b hoid hcnt
  rw [← hsucc] at hbyte
  rcases takeObjectId_cases s b with ⟨-, e⟩ | ⟨hlast, e⟩ <;> rw [e]
  · have hcnt' : (s.blk.cnt + 1).toNat ≤ 4 := by omega
    exact crcFolded_of_next_byte hl rfl hfree ((coveredBytes_readingObjectId (by exact hst) hcnt').trans hbyte)
  · rw [hlast] at hbyte
    refine crcFolded_of_next_byte hl rfl hfree ?_
    split_ifs with hhdr
    · exact (coveredBytes_awaitCrc_header rfl (by exact hhdr)).trans hbyte
    · exact (coveredBytes_readingInstanceId rfl (by simp)).trans ((List.append_nil _).trans hbyte)

/-- R134: after the second byte the frame is complete, or the data begin. -/
theorem CrcFolded.takeInstanceId (b : Byte) (hst : s.blk.st = .readingInstanceId) :
    CrcFolded (s.takeInstanceId b) := by
  obtain ⟨-, -, hhdr, hcnt, hiid⟩ := (frameInProgress_readingInstanceId_iff hst).mp hs.frame
  have hl := hc.acc (by simp [hst]) (by simp [hst])
  rw [coveredBytes_readingInstanceId hst hcnt.le] at hl
  have hsucc : (s.blk.cnt + 1).toNat = s.blk.cnt.toNat + 1 := by bv_omega
  have hbyte := append_registerBytes_placeHalf
    ([s.blk.mSync, s.blk.mType] ++ registerBytes s.blk.mLen 2 ++ registerBytes s.blk.mOid 4) b hiid hcnt
  rw [← hsucc] at hbyte
  rcases takeInstanceId_cases s b with ⟨-, e⟩ | ⟨hlast, e⟩ <;> rw [e]
  · have hcnt' : (s.blk.cnt + 1).toNat ≤ 2 := by omega
    exact crcFolded_of_next_byte hl rfl hfree ((coveredBytes_readingInstanceId (by exact hst) hcnt').trans hbyte)
  · rw [hlast] at hbyte
    refine crcFolded_of_next_byte hl rfl hfree ?_
    split_ifs with hdata
    · refine (coveredBytes_awaitCrc_long rfl (by exact hhdr)).trans ?_
      rw [hdata]
      exact (List.append_nil _).trans hbyte
    · exact (coveredBytes_readingData rfl).trans ((List.append_nil _).trans hbyte)

/-- R135: the byte goes to the cell after those covered, so after the last one all of the data are covered. -/
theorem CrcFolded.of_takeData {t : State} {b : Byte} (hst : s.blk.st = .readingData) (h : s.takeData b = .next t) :
    CrcFolded t := by
  obtain ⟨-, -, hhdr, -, -⟩ := (frameInProgress_readingData_iff hst).mp hs.frame
  obtain ⟨hcap, rfl⟩ := takeData_eq_next_iff.mp h
  have hl := hc.acc (by simp [hst]) (by simp [hst])
  rw [coveredBytes_readingData hst] at hl
  have hsucc : (s.blk.cnt + 1).toNat = s.blk.cnt.toNat + 1 := by
    change s.blk.cnt.toNat < 255 at hcap
    bv_omega
  have hbyte := congrArg ([s.blk.mSync, s.blk.mType] ++ registerBytes s.blk.mLen 2 ++ registerBytes s.blk.mOid 4 ++
    registerBytes s.blk.mIid 2 ++ ·) (dataBytes_storeWrite s.blk.data s.blk.cnt.toNat b)
  rw [← List.append_assoc, ← hsucc] at hbyte
  split_ifs with hlast
  · rw [hlast] at hbyte
    exact crcFolded_of_next_byte hl rfl hfree ((coveredBytes_awaitCrc_long rfl (by exact hhdr)).trans hbyte)
  · exact crcFolded_of_next_byte hl rfl hfree ((coveredBytes_readingData (by exact hst)).trans hbyte)

end Codec

/-- R136, R138: the CRC byte that begins a hold equals the accumulator, which covers the whole frame. -/
theorem CrcFolded.acceptFrame {s : State} (hc : CrcFolded s) (hst : s.blk.st = .awaitCrc) :
    CrcFolded (s.acceptFrame s.blk.acc) := by
  have hl := hc.acc (by simp [hst]) (by simp [hst])
  have hframe : coveredBytes s.cfg s.blk = frameBody s.cfg s.blk := by rw [coveredBytes, hst]
  have hheld : CrcFolded (s.setBlk { s.blk with mCrc := s.blk.acc, st := .idle, held := true }) :=
    ⟨fun hne => absurd rfl hne, fun _ => hl.trans (congrArg (crcFold 0) hframe)⟩
  rw [State.acceptFrame, crcFolded_treatMessage, crcFolded_addTrace, crcFolded_emitVerdict]
  exact hheld

/-- RX_BYTE, in each codec state (R125). -/
theorem CrcFolded.of_execRxByte {s t : State} {b : Byte} (hc : CrcFolded s) (hs : Sound s)
    (h : execRxByte b s = .next t) : CrcFolded t := by
  obtain ⟨hfree, hcases⟩ := execRxByte_next_cases h
  rcases hcases with ⟨-, -, rfl⟩ | ⟨-, -, rfl⟩ | ⟨hst, -, rfl⟩ | ⟨-, -, rfl⟩ | ⟨hst, rfl⟩ | ⟨hst, rfl⟩ |
    ⟨hst, rfl⟩ | ⟨hst, hdata⟩ | ⟨hst, rfl, rfl⟩ | ⟨-, -, rfl⟩
  · exact crcFolded_startFrame hfree b
  · exact hc
  · exact hc.acceptType hfree b hst
  · exact crcFolded_of_idle rfl hfree
  · exact hc.takeLength hfree hs b hst
  · exact hc.takeObjectId hfree hs b hst
  · exact hc.takeInstanceId hfree hs b hst
  · exact hc.of_takeData hfree hs hst hdata
  · exact hc.acceptFrame hst
  · exact crcFolded_of_idle rfl hfree

/-! ### The dispatcher (42_field_extractor.md R177, R180) -/

/-- A field writes a slot or none, and the CRC covers neither. -/
theorem CrcFolded.of_extractField {s t : State} {k : FieldKind} {o d : Byte} (hc : CrcFolded s)
    (h : s.extractField k o d = .next t) : CrcFolded t := by
  rcases extractField_next_cases h with ⟨-, raw, -, rfl⟩ | ⟨-, rfl⟩
  · exact crcFolded_writeSlot.mpr hc
  · exact hc

/-- R138, R180: a held message has the codec in Idle, where DISPATCH leaves it. -/
theorem crcFolded_of_execDispatch {s t : State} (hs : Sound s) (h : execDispatch s = .next t) : CrcFolded t := by
  obtain ⟨hheld, hcases⟩ := execDispatch_next_cases h
  obtain ⟨hidle, -⟩ := hs.heldMessage hheld
  rcases hcases with ⟨-, rfl⟩ | ⟨descs, u, -, hu, rfl⟩
  · exact crcFolded_of_idle hidle rfl
  · have hst : u.blk.st = s.blk.st := by rw [(extractAll_frame hu).telem]; rfl
    exact crcFolded_of_idle (hst.trans hidle) rfl

/-! ### Every instruction, every step -/

theorem CrcFolded.of_exec {i : Instr} {s t : State} (hc : CrcFolded s) (hs : Sound s) (h : exec i s = .next t) :
    CrcFolded t := by
  rcases exec_next_cases h with rfl | ⟨y, rfl⟩ | ⟨b, hb⟩ | he | ⟨-, hr⟩ | ⟨-, hd⟩ | ⟨k, o, d, hf⟩
  · exact crcFolded_emitVerdict.mpr hc
  · exact crcFolded_setOut.mpr hc
  · exact hc.of_execRxByte hs hb
  · obtain ⟨hfree, rfl⟩ := execRxError_next_iff.mp he
    exact crcFolded_of_idle rfl hfree
  · obtain ⟨-, rfl⟩ := execReset_next_iff.mp hr
    exact crcFolded_of_idle rfl rfl
  · exact crcFolded_of_execDispatch hs hd
  · obtain ⟨-, -, he⟩ := extractAlone_next hf
    exact CrcFolded.of_extractField (crcFolded_setOut.mpr hc) he

/-- Settles O42: a step is one instruction (`CrcFolded.of_exec`); of those a codec step folds the byte that it adds to
the frame (`crcFolded_of_next_byte`), and the VALID step keeps the accumulator as the CRC byte
(`CrcFolded.acceptFrame`). -/
theorem everyStepKeepsCrcFolded : Obligations.EveryStepKeepsCrcFolded := by
  intro s t hs hc h
  obtain ⟨-, i, u, -, hu, rfl⟩ := step_next_cases h
  exact crcFolded_consume.mpr (hc.of_exec hs hu)

end Sys2Proof.Machine

/-! PROOF. One step of the block: RX_NONE, RX_ERROR, the input of a step (60_exceptions.md R204), and RX_BYTE state by
state (41_frame_codec.md R130 to R137, R140, R141). -/

namespace Sys2Proof.Machine

/-! ### The actions without a data byte -/

/-- Settles O14: the verdict NONE drives the idle outputs (`verdictOutputs_none`), and the row writes nothing else. -/
theorem rxNoneChangesNoState : Obligations.RxNoneChangesNoState := fun _ => rfl

/-- Settles O15: RX_ERROR is a drop in every state (`execRxError_next_iff`), and in Idle a drop writes no register. -/
theorem rxErrorAbortsTheFrame : Obligations.RxErrorAbortsTheFrame := by
  intro s hfree
  refine ⟨fun _ => execRxError_next_iff.mpr ⟨hfree, rfl⟩, fun hst => execRxError_next_iff.mpr ⟨hfree, ?_⟩⟩
  have hsame : { s.blk with st := CodecState.idle } = s.blk := by rw [← hst]
  rw [State.drop, hsame, hst]
  rfl

/-! ### The input of a step (60_exceptions.md R204) -/

/-- A step whose row goes on goes on, with its input used up. -/
theorem step_of_exec_next {s t : State} {i : Instr} (hcfg : configRefusal s.cfg = none)
    (h : decode s.cfg s.nextWord = .ok i) (hi : exec i s = .next t) : step s = .next t.consume := by
  simp [step, hcfg, h, hi, Result.andThen]

/-- A reset request wins over the script, whatever stands there. -/
theorem nextWord_of_resetReq {s : State} (hreq : s.resetReq = true) : s.nextWord = actionWord 4 0 := if_pos hreq

/-- A silent transport offers RX_NONE (R141). -/
theorem nextWord_of_silent {s : State} (hreq : s.resetReq = false) (hscript : s.script = []) :
    s.nextWord = actionWord 0 0 := by
  simp [State.nextWord, hreq, hscript]

/-- Settles O12: the word of the step is RESET's, the script's head or RX_NONE's (`nextWord_of_resetReq`,
`nextWord_of_script`, `nextWord_of_silent`), and the step runs it and uses it up (`step_of_exec_next`). -/
theorem resetRequestWinsAndTheOtherInputIsLost : Obligations.ResetRequestWinsAndTheOtherInputIsLost := by
  intro s hcfg
  refine ⟨fun hreq hhost => ?_, fun w rest hreq hscript => nextWord_of_script hreq hscript, fun hreq hscript => ?_⟩
  · have hdecode : decode s.cfg s.nextWord = .ok .reset := by rw [nextWord_of_resetReq hreq]; rfl
    have hreset : exec .reset s = .next s.doReset := execReset_next_iff.mpr ⟨hhost, rfl⟩
    exact ⟨_, step_of_exec_next hcfg hdecode hreset, rfl, rfl, rfl, rfl⟩
  · have hdecode : decode s.cfg s.nextWord = .ok .rxNone := by rw [nextWord_of_silent hreq hscript]; rfl
    have hnone := rxNoneChangesNoState s
    have hused : ({ s with out := Outputs.idle } : State).consume =
        { s with out := Outputs.idle, steps := s.steps + 1 } := by
      simp [State.consume, hreq, hscript]
    rw [step_of_exec_next hcfg hdecode hnone, hused]

/-! ### RX_BYTE, where the byte decides -/

/-- R127, on the byte's upper bits. -/
theorem versionOk_iff {cfg : Config} {b : Byte} : versionOk cfg b = true ↔ b.extractLsb' 4 4 = cfg.version :=
  beq_iff_eq

/-- `m_len` as a number and as a register. -/
theorem toNat_eq_hdrLen_iff {len : Half} : len.toNat = Config.hdrLen ↔ len = 8 :=
  BitVec.toNat_inj (y := 8)

section Byte

variable {s : State} (hfree : s.blk.held = false)
include hfree

/-- R130, not the sync byte. -/
theorem exec_rxByte_discard (hst : s.blk.st = .idle) {b : Byte} (hb : b ≠ s.cfg.syncVal) :
    exec (.rxByte b) s = .next (s.discardByte b) := by
  simp [exec, execRxByte, State.whenFree, hfree, hst, hb]

/-- R131. -/
theorem exec_rxByte_gotSync (hst : s.blk.st = .gotSync) (b : Byte) :
    exec (.rxByte b) s = .next (if versionOk s.cfg b then s.acceptType b else s.rejectType b) := by
  simp [exec, execRxByte, State.whenFree, hfree, hst]

/-- R136. -/
theorem exec_rxByte_awaitCrc (hst : s.blk.st = .awaitCrc) (b : Byte) :
    exec (.rxByte b) s = .next (s.takeCrc b) := by
  simp [exec, execRxByte, State.whenFree, hfree, hst]

/-- A row of the codec runs in the state of its key. -/
theorem inCodecState_of_eq {k : CodecState} (hst : s.blk.st = k) (r : Result) : s.inCodecState k r = r := by
  simp [State.inCodecState, State.whenFree, hfree, hst]

end Byte

/-- Settles O18: the two bytes that Idle tells apart (`exec_rxByte_sync`, `exec_rxByte_discard`). -/
theorem rxByteInIdle : Obligations.RxByteInIdle := by
  intro s b hfree hst
  constructor
  · rintro rfl
    exact exec_rxByte_sync hfree hst
  · exact exec_rxByte_discard hfree hst

/-- Settles O19: GotSync accepts the byte exactly with the upper nibble VERSION (`versionOk_iff`). -/
theorem rxByteInGotSync : Obligations.RxByteInGotSync := by
  intro s b hfree hst
  rw [exec_rxByte_gotSync hfree hst]
  constructor
  · intro hversion
    rw [if_pos (versionOk_iff.mpr hversion)]
    rfl
  · intro hversion
    rw [if_neg (mt versionOk_iff.mp hversion)]
    rfl

/-- Settles O20: every msg_type row is the receipt of its type nibble (`State.takeTypeByte`), which in GotSync is taken. -/
theorem msgTypeRowsTakeTheTypeByte : Obligations.MsgTypeRowsTakeTheTypeByte := by
  intro s hfree hst
  have htaken (ty : Nibble) : s.takeTypeByte ty = .next (s.acceptType (typeByte s.cfg.version ty)) :=
    inCodecState_of_eq hfree hst _
  constructor
  · intro p hp
    have hrow : exec p.1 s = s.takeTypeByte p.2 := by fin_cases hp <;> rfl
    exact hrow.trans (htaken p.2)
  · exact htaken

/-- Settles O21: the first length byte is the one at `cnt` 0, and after the second `LenOk` decides (`lenOk_iff`). -/
theorem rxByteInReadingLength : Obligations.RxByteInReadingLength := by
  intro s b hfree hst len
  rw [exec_rxByte_readingLength hfree hst]
  refine ⟨fun hcnt => ?_, fun hcnt hmin hmax => ?_, fun hcnt hrange => ?_⟩
  · exact congrArg Host.Outcome.next (if_pos hcnt)
  · have hlen : lenOk len = true := lenOk_iff.mpr ⟨hmin, hmax⟩
    exact congrArg Host.Outcome.next ((if_neg hcnt).trans (if_pos hlen))
  · have hlen : ¬ lenOk len = true := by
      rw [lenOk_iff]
      omega
    exact congrArg Host.Outcome.next ((if_neg hcnt).trans (if_neg hlen))

/-- Settles O22: the byte is the last one exactly when the incremented `cnt` is 4 (`takeObjectId_cases`), and then the
length tells a header-only frame (`toNat_eq_hdrLen_iff`). -/
theorem rxByteInReadingObjectId : Obligations.RxByteInReadingObjectId := by
  intro s b hfree hst oid
  rw [exec_rxByte_readingObjectId hfree hst]
  rcases takeObjectId_cases s b with ⟨hmore, e⟩ | ⟨hlast, e⟩ <;> rw [e]
  · exact ⟨fun _ => rfl, fun h => absurd h hmore⟩
  · simp only [toNat_eq_hdrLen_iff]
    exact ⟨fun h => absurd hlast h, fun _ => rfl⟩

/-- Settles O23: the byte is the last one exactly when the incremented `cnt` is 2 (`takeInstanceId_cases`). -/
theorem rxByteInReadingInstanceId : Obligations.RxByteInReadingInstanceId := by
  intro s b hfree hst iid
  rw [exec_rxByte_readingInstanceId hfree hst]
  rcases takeInstanceId_cases s b with ⟨hmore, e⟩ | ⟨hlast, e⟩ <;> rw [e]
  · exact ⟨fun _ => rfl, fun h => absurd h hmore⟩
  · exact ⟨fun h => absurd hlast h, fun _ => rfl⟩

/-- Settles O24: below the capacity the byte is written (`takeData_eq_next_iff`), to cell `cnt` and no other
(`storeRead_storeWrite_other`), and there the increment of `cnt` does not wrap. -/
theorem rxByteInReadingData : Obligations.RxByteInReadingData := by
  intro s b hfree hst hcap
  have hsucc : (s.blk.cnt + 1).toNat = s.blk.cnt.toNat + 1 := by bv_omega
  have hcell := storeRead_storeWrite_same s.blk.cnt.toNat b s.blk.data
  refine ⟨storeWrite s.blk.cnt.toNat b s.blk.data, ⟨hcell, fun j hj => storeRead_storeWrite_other hj b _⟩, ?_⟩
  rw [exec_rxByte_readingData hfree hst, ← hsucc]
  constructor
  · intro hmore
    refine takeData_eq_next_iff.mpr ⟨hcap, ?_⟩
    rw [if_neg hmore]
    rfl
  · intro hlast
    refine takeData_eq_next_iff.mpr ⟨hcap, ?_⟩
    rw [if_pos hlast]
    rfl

/-- Settles O25: the three things that AwaitCrc does with a byte (`takeCrc_cases`), one for each clause. -/
theorem rxByteInAwaitCrc : Obligations.RxByteInAwaitCrc := by
  intro s b hfree hst h
  have hack : ackFrame s.cfg s.blk.mOid = h ++ [crcFold 0 h] := rfl
  rw [exec_rxByte_awaitCrc hfree hst]
  rcases takeCrc_cases s b with ⟨hb, hother, e⟩ | ⟨hb, hobjAck, e⟩ | ⟨hb, e⟩ <;> rw [e]
  · exact ⟨fun _ _ => rfl, fun _ hty => absurd hty hother, fun hne => absurd hb hne⟩
  · refine ⟨fun _ hty => absurd hobjAck hty, fun _ _ => ?_, fun hne => absurd hb hne⟩
    rw [List.append_assoc, ← hack, List.append_cons]
    rfl
  · exact ⟨fun heq => absurd heq hb, fun heq => absurd heq hb, fun _ => rfl⟩

end Sys2Proof.Machine

/-! PROOF. The codec-step table (30_encoding.md R88): in each state, the row that the byte selects is what RX_BYTE does. -/

namespace Sys2Proof.Machine

/-- The row of a codec state and a byte. -/
def codecRow (cfg : Config) (st : CodecState) (b : Byte) : Instr :=
  match st with
  | .idle => if b = cfg.syncVal then .rxIdleSync else .rxIdleOther b
  | .gotSync => if versionOk cfg b then .rxGotSyncVersionOk (loNibble b) else .rxGotSyncBadVersion b
  | .readingLength => .rxReadingLength b
  | .readingObjectId => .rxReadingObjectId b
  | .readingInstanceId => .rxReadingInstanceId b
  | .readingData => .rxReadingData b
  | .awaitCrc => .rxAwaitCrc b
  | .illFormed => .rxIllFormedState b

/-- The key of a state's code and a byte decodes to their row. -/
theorem decodeCodecKey_stateCode (cfg : Config) (st : CodecState) (b : Byte) :
    decodeCodecKey cfg (stateCode st ++ b) = codecRow cfg st b := by
  rw [decodeCodecKey, extractLsb'_code_append, extractLsb'_byte_append]
  cases st <;> rfl

/-- R88, R125: RX_BYTE is the row of the state and the byte, faults included. -/
theorem exec_codecRow {s : State} (hfree : s.blk.held = false) (b : Byte) :
    exec (codecRow s.cfg s.blk.st b) s = exec (.rxByte b) s := by
  cases hst : s.blk.st
  case idle =>
    by_cases hb : b = s.cfg.syncVal
    · subst hb
      rw [exec_rxByte_sync hfree hst, codecRow, if_pos rfl]
      exact inCodecState_of_eq hfree hst _
    · rw [exec_rxByte_discard hfree hst hb, codecRow, if_neg hb]
      exact (inCodecState_of_eq hfree hst _).trans (if_neg hb)
  case gotSync =>
    rw [exec_rxByte_gotSync hfree hst, codecRow]
    by_cases hb : versionOk s.cfg b = true
    · have hbyte : typeByte s.cfg.version (loNibble b) = b := typeByte_loNibble (versionOk_iff.mp hb)
      rw [if_pos hb, if_pos hb]
      exact (inCodecState_of_eq hfree hst _).trans (by rw [hbyte])
    · rw [if_neg hb, if_neg hb]
      exact (inCodecState_of_eq hfree hst _).trans (if_neg hb)
  case readingLength =>
    exact (inCodecState_of_eq hfree hst _).trans (exec_rxByte_readingLength hfree hst b).symm
  case readingObjectId =>
    exact (inCodecState_of_eq hfree hst _).trans (exec_rxByte_readingObjectId hfree hst b).symm
  case readingInstanceId =>
    exact (inCodecState_of_eq hfree hst _).trans (exec_rxByte_readingInstanceId hfree hst b).symm
  case readingData =>
    exact (inCodecState_of_eq hfree hst _).trans (exec_rxByte_readingData hfree hst b).symm
  case awaitCrc =>
    exact (inCodecState_of_eq hfree hst _).trans (exec_rxByte_awaitCrc hfree hst b).symm
  case illFormed =>
    obtain ⟨-, -, -, -, -, hfault⟩ := reservedRowsStopByName s b 0 0
    obtain ⟨hbyte, hrow⟩ := hfault hfree hst
    exact hrow.trans hbyte.symm

/-- Settles O28: the key of the state decodes to the state's row (`decodeCodecKey_stateCode`), and that row is RX_BYTE
(`exec_codecRow`). -/
theorem rxByteIsTheRowOfItsKey : Obligations.RxByteIsTheRowOfItsKey := by
  intro s b hfree
  rw [decodeCodecKey_stateCode, exec_codecRow hfree]

/-- Where RX_BYTE goes on, the row that the state and the byte select goes on likewise. -/
theorem exists_row_next {s t : State} {b : Byte} {i : Instr} (hfree : s.blk.held = false)
    (hrow : codecRow s.cfg s.blk.st b = i) (h : exec (.rxByte b) s = .next t) :
    ∃ t, exec i s = .next t ∧ exec (.rxByte b) s = .next t :=
  ⟨t, by rw [← hrow, exec_codecRow hfree, h], h⟩

/-- Settles O27: RX_BYTE goes on in each of the seven states, and with it the row that the byte selects there
(`exists_row_next`). -/
theorem codecStepRowsGoOnAsRxByte : Obligations.CodecStepRowsGoOnAsRxByte := by
  intro s b hfree goesOn
  refine ⟨fun hst => ⟨?_, fun hb => ?_⟩, fun hst => ⟨fun ty => ?_, fun hb => ?_⟩, fun hst => ?_, fun hst => ?_,
    fun hst => ?_, fun hst hcap => ?_, fun hst => ?_⟩
  · exact exists_row_next hfree (by rw [hst]; exact if_pos rfl) (exec_rxByte_sync hfree hst)
  · exact exists_row_next hfree (by rw [hst]; exact if_neg hb) (exec_rxByte_discard hfree hst hb)
  · have hrow : codecRow s.cfg .gotSync (typeByte s.cfg.version ty) = .rxGotSyncVersionOk ty := by
      rw [codecRow, if_pos (versionOk_typeByte s.cfg ty), loNibble_typeByte]
    exact exists_row_next hfree (by rw [hst]; exact hrow) (exec_rxByte_type hfree hst ty)
  · have hversion : ¬ versionOk s.cfg b = true := mt versionOk_iff.mp hb
    exact exists_row_next hfree (by rw [hst]; exact if_neg hversion) (exec_rxByte_gotSync hfree hst b)
  · exact exists_row_next hfree (by rw [hst]; rfl) (exec_rxByte_readingLength hfree hst b)
  · exact exists_row_next hfree (by rw [hst]; rfl) (exec_rxByte_readingObjectId hfree hst b)
  · exact exists_row_next hfree (by rw [hst]; rfl) (exec_rxByte_readingInstanceId hfree hst b)
  · have hnext := (takeData_eq_next_iff (b := b)).mpr ⟨hcap, rfl⟩
    exact exists_row_next hfree (by rw [hst]; rfl) ((exec_rxByte_readingData hfree hst b).trans hnext)
  · exact exists_row_next hfree (by rw [hst]; rfl) (exec_rxByte_awaitCrc hfree hst b)

end Sys2Proof.Machine

/-! PROOF. Which steps touch the hold, the transmit queue and the telemetry slots (10_state.md R31, R35, R40;
42_field_extractor.md R192). -/

namespace Sys2Proof.Machine

/-- The hold, the transmit queue and the slots are as before. -/
structure InterfaceKept (s t : State) : Prop where
  held : t.blk.held = s.blk.held
  txq : t.blk.txq = s.blk.txq
  telem : t.blk.telem = s.blk.telem

theorem interfaceKept_takeLength (s : State) (b : Byte) : InterfaceKept s (s.takeLength b) := by
  rcases takeLength_cases s b with ⟨-, e⟩ | ⟨-, -, e⟩ | ⟨-, -, e⟩ <;> rw [e] <;> exact ⟨rfl, rfl, rfl⟩

theorem interfaceKept_takeObjectId (s : State) (b : Byte) : InterfaceKept s (s.takeObjectId b) := by
  rcases takeObjectId_cases s b with ⟨-, e⟩ | ⟨-, e⟩ <;> rw [e] <;> exact ⟨rfl, rfl, rfl⟩

theorem interfaceKept_takeInstanceId (s : State) (b : Byte) : InterfaceKept s (s.takeInstanceId b) := by
  rcases takeInstanceId_cases s b with ⟨-, e⟩ | ⟨-, e⟩ <;> rw [e] <;> exact ⟨rfl, rfl, rfl⟩

theorem InterfaceKept.of_takeData {s t : State} {b : Byte} (h : s.takeData b = .next t) : InterfaceKept s t := by
  obtain ⟨-, rfl⟩ := takeData_eq_next_iff.mp h
  split_ifs <;> exact ⟨rfl, rfl, rfl⟩

/-- RX_BYTE keeps all three, but for the VALID step (R136). -/
theorem execRxByte_interface_cases {b : Byte} {s t : State} (h : execRxByte b s = .next t) :
    InterfaceKept s t ∨ (s.blk.held = false ∧ t = s.acceptFrame b) := by
  obtain ⟨hfree, hc⟩ := execRxByte_next_cases h
  rcases hc with ⟨-, -, rfl⟩ | ⟨-, -, rfl⟩ | ⟨-, -, rfl⟩ | ⟨-, -, rfl⟩ | ⟨-, rfl⟩ | ⟨-, rfl⟩ | ⟨-, rfl⟩ |
    ⟨-, hdata⟩ | ⟨-, -, rfl⟩ | ⟨-, -, rfl⟩
  · exact .inl ⟨rfl, rfl, rfl⟩
  · exact .inl ⟨rfl, rfl, rfl⟩
  · exact .inl ⟨rfl, rfl, rfl⟩
  · exact .inl ⟨rfl, rfl, rfl⟩
  · exact .inl (interfaceKept_takeLength s b)
  · exact .inl (interfaceKept_takeObjectId s b)
  · exact .inl (interfaceKept_takeInstanceId s b)
  · exact .inl (.of_takeData hdata)
  · exact .inr ⟨hfree, rfl⟩
  · exact .inl ⟨rfl, rfl, rfl⟩

theorem ExtractFrame.held {s t : State} (h : ExtractFrame s t) : t.blk.held = s.blk.held := by
  rw [h.telem]

theorem ExtractFrame.txq {s t : State} (h : ExtractFrame s t) : t.blk.txq = s.blk.txq := by
  rw [h.telem]

/-- DISPATCH ends the hold with `disp_done` and sends nothing (R180). -/
theorem execDispatch_interface {s t : State} (h : execDispatch s = .next t) :
    s.blk.held = true ∧ t.blk.txq = s.blk.txq ∧ t.out.dispDone = true := by
  obtain ⟨hheld, ⟨-, rfl⟩ | ⟨descs, u, -, hu, rfl⟩⟩ := execDispatch_next_cases h
  · exact ⟨hheld, rfl, rfl⟩
  · exact ⟨hheld, (extractAll_frame hu).txq, rfl⟩

/-- What an instruction does to the hold, the transmit queue and the slots: nothing; the VALID step; with a message held,
the dispatcher's work, which keeps the hold or ends it with `disp_done`; or RESET. -/
theorem exec_interface_cases {i : Instr} {s t : State} (h : exec i s = .next t) :
    InterfaceKept s t ∨ (s.blk.held = false ∧ ∃ b, t = s.acceptFrame b) ∨
      (s.blk.held = true ∧ t.blk.txq = s.blk.txq ∧ (t.blk.held = true ∨ t.out.dispDone = true)) ∨
      t = s.doReset := by
  rcases exec_next_cases h with rfl | ⟨y, rfl⟩ | ⟨b, hb⟩ | he | ⟨-, hr⟩ | ⟨-, hd⟩ | ⟨k, o, d, hf⟩
  · exact .inl ⟨rfl, rfl, rfl⟩
  · exact .inl ⟨rfl, rfl, rfl⟩
  · rcases execRxByte_interface_cases hb with hkept | ⟨hfree, ht⟩
    · exact .inl hkept
    · exact .inr (.inl ⟨hfree, b, ht⟩)
  · obtain ⟨-, rfl⟩ := execRxError_next_iff.mp he
    exact .inl ⟨rfl, rfl, rfl⟩
  · obtain ⟨-, rfl⟩ := execReset_next_iff.mp hr
    exact .inr (.inr (.inr rfl))
  · obtain ⟨hheld, htxq, hdone⟩ := execDispatch_interface hd
    exact .inr (.inr (.inl ⟨hheld, htxq, .inr hdone⟩))
  · obtain ⟨-, hheld, he⟩ := extractAlone_next hf
    have hframe := extractField_frame he
    exact .inr (.inr (.inl ⟨hheld, hframe.txq, .inl (hframe.held.trans hheld)⟩))

/-- Settles O44: while no message is held only RESET touches a slot (`exec_interface_cases`). -/
theorem slotsChangeOnlyWhileHeld : Obligations.SlotsChangeOnlyWhileHeld := by
  intro s t h hne
  obtain ⟨-, i, u, -, hu, rfl⟩ := step_next_cases h
  rcases exec_interface_cases hu with hkept | ⟨-, b, rfl⟩ | ⟨hheld, -, -⟩ | rfl
  · exact absurd hkept.telem hne
  · have hsame : (s.acceptFrame b).blk.telem = s.blk.telem := by rw [acceptFrame_blk]
    exact absurd hsame hne
  · exact .inl hheld
  · exact .inr ⟨rfl, rfl⟩

/-- Settles O45: of what an instruction does (`exec_interface_cases`) the VALID step alone appends to `txq`, and only for
an OBJ_ACK frame (`acceptFrame_blk`). -/
theorem transmitQueueGrowsOnlyByAcknowledgements : Obligations.TransmitQueueGrowsOnlyByAcknowledgements := by
  intro s t h
  obtain ⟨-, i, u, -, hu, rfl⟩ := step_next_cases h
  rcases exec_interface_cases hu with hkept | ⟨-, b, rfl⟩ | ⟨-, htxq, -⟩ | rfl
  · exact .inl hkept.txq
  · rw [State.consume_blk, State.consume_out, acceptFrame_blk, State.acceptFrame_out]
    by_cases hack : loNibble s.blk.mType = s.cfg.typeObjAck
    · exact .inr (.inl ⟨by rw [if_pos hack], rfl, hack⟩)
    · exact .inl (by rw [if_neg hack, List.append_nil])
  · exact .inl htxq
  · exact .inr (.inr ⟨rfl, rfl⟩)

/-- Settles O48: of what an instruction does (`exec_interface_cases`) the VALID step alone begins a hold, and what ends
one is DISPATCH, with `disp_done`, or RESET. -/
theorem holdBeginsWithValidEndsWithDispatchOrReset : Obligations.HoldBeginsWithValidEndsWithDispatchOrReset := by
  intro s t h
  obtain ⟨-, i, u, -, hu, rfl⟩ := step_next_cases h
  rw [State.consume_blk, State.consume_out, State.consume_trace]
  rcases exec_interface_cases hu with hkept | ⟨hfree, b, rfl⟩ | ⟨hheld, -, hend⟩ | rfl
  · rw [hkept.held]
    exact ⟨fun hfree hheld => by simp [hfree] at hheld, fun hheld hfree => by simp [hheld] at hfree⟩
  · exact ⟨fun _ _ => by simp, fun hheld => by simp [hfree] at hheld⟩
  · refine ⟨fun hfree => by simp [hheld] at hfree, fun _ hfree => hend.elim (fun hstill => ?_) .inl⟩
    simp [hfree] at hstill
  · exact ⟨fun _ hheld => (by cases hheld), fun _ _ => .inr rfl⟩

end Sys2Proof.Machine

/-! PROOF. Whole runs of bytes: the bytes before a frame (41_frame_codec.md R160), a header-only frame (R139), and a frame
of length 9 (R122). -/

namespace Sys2Proof.Machine

/-- With idle outputs, the receipt of a byte that is not the sync byte shows in the trace alone (R130). -/
theorem discardByte_of_idle {s : State} (hout : s.out = Outputs.idle) (b : Byte) :
    s.discardByte b = s.addTrace (.idleDiscard b) := by
  rw [State.discardByte, State.emitVerdict, verdictOutputs_none, ← hout]
  rfl

/-- Settles O51, by induction on the bytes: each is discarded (`exec_rxByte_discard`), and the state after it is again one
in which the next is (`discardByte_of_idle`). -/
theorem bytesBeforeSyncAreDiscarded : Obligations.BytesBeforeSyncAreDiscarded := by
  intro bytes
  induction bytes with
  | nil =>
    intro s _ _ _ _
    rw [List.map_nil, List.append_nil]
    rfl
  | cons b bs ih =>
    intro s hfree hst hother hout
    obtain ⟨hb, hbs⟩ := List.forall_mem_cons.mp hother
    have hnext := exec_rxByte_discard hfree hst hb
    rw [discardByte_of_idle hout] at hnext
    rw [feed_cons_of_next hnext, ih (s.addTrace (.idleDiscard b)) hfree hst hbs hout, List.map_cons, List.append_cons]
    rfl

/-- Settles O52: the codec reads the eight header bytes as they are (`feed_headerBytes`), and the CRC byte is that of the
VALID step (`feed_withCrc`), which holds the message and acknowledges OBJ_ACK alone (`acceptFrame_blk`). -/
theorem headerOnlyFrameIsReceived : Obligations.HeaderOnlyFrameIsReceived := by
  intro s ty oid hfree hst
  have hbody := feed_headerBytes hfree hst ty oid
  refine ⟨_, feed_withCrc hbody hfree rfl (by simp only), ?_⟩
  rw [State.acceptFrame_out, State.acceptFrame_cfg, acceptFrame_blk]
  refine ⟨rfl, rfl, rfl, rfl, rfl, rfl, rfl, rfl, rfl, rfl, ?_⟩
  simp only [loNibble_typeByte]

/-- Settles O58: length 9 counts no data byte, so the frame is one with an `m_iid` and empty data
(`exists_feed_longFrame_valid`). -/
theorem lengthNineFrameIsReceived : Obligations.LengthNineFrameIsReceived := by
  intro s ty oid iid hfree hst hcounts
  have hhdr : (9 : Half).toNat ≠ Config.hdrLen := by decide
  have hnone : dataCount s.cfg 9 = 0 := by simp [dataCount, hcounts]
  obtain ⟨t, hfeed, hout, hcfg, hblk⟩ :=
    exists_feed_longFrame_valid (data := []) hfree hst ty (by decide) hhdr oid iid hnone.symm
  refine ⟨t, hfeed, ?_⟩
  rw [hout, hcfg, hblk]
  exact ⟨rfl, rfl, rfl, rfl, rfl, rfl, rfl, (rxDataCount_of_ne hhdr).trans hnone, rfl, rfl, rfl⟩

end Sys2Proof.Machine

/-! PROOF. One field of the extractor, as a row of its own (42_field_extractor.md R176 to R188). -/

namespace Sys2Proof.Machine

/-! ### What a field does -/

section Field

variable {s t : State} {k : FieldKind} {o d : Byte}

/-- R176, R177: a field whose bytes were received and are written is stored in its slot. -/
theorem extractField_of_memRead {raw : Word} (hdn : o.toNat + fieldWidth k ≤ rxDataCount s.cfg s.blk.mLen)
    (hraw : memRead s.blk.data o.toNat (fieldWidth k) = .ok raw) :
    s.extractField k o d = .next (s.writeSlot d.toNat (extendField k raw)) := by
  simp [State.extractField, hdn, hraw]

/-- R178: a field that the frame did not deliver whole is skipped. -/
theorem extractField_of_short (hdn : rxDataCount s.cfg s.blk.mLen < o.toNat + fieldWidth k) :
    s.extractField k o d = .next (s.skipShort (descWord k o d)) :=
  if_neg (Nat.not_le.mpr hdn)

/-- A word that spells a field which fits is that field (R172, R176). -/
theorem extractWord_descWord (hfits : fieldFits s.cfg k o d = true) :
    s.extractWord (descWord k o d) = s.extractField k o d := by
  simp [State.extractWord, hfits]

/-- A field row that fits is the field itself, from outputs that carry only what has been collected. -/
theorem extractAlone_of_held (hheld : s.blk.held = true) (hfits : fieldFits s.cfg k o d = true) :
    s.extractAlone k o d = (s.setOut s.out.goOn).extractField k o d := by
  simp [State.extractAlone, State.whenHeld, hheld, hfits]

theorem exec_extInstr (k : FieldKind) (o d : Byte) (s : State) :
    exec (extInstr k o d) s = s.extractAlone k o d := by
  cases k <;> rfl

/-- R177, R179: the slot holds the value, `changed` has taken note of it, and all else is as before. -/
def FieldWritten (s t : State) (slot : Nat) (v : Word) : Prop :=
  t = { s with
    blk := { s.blk with telem := t.blk.telem },
    out := { Outputs.idle with
      dispShort := s.out.dispShort,
      dispChanged := s.out.dispChanged || decide (storeRead slot s.blk.telem ≠ some v) } } ∧
  storeRead slot t.blk.telem = some v ∧ ∀ j, j ≠ slot → storeRead j t.blk.telem = storeRead j s.blk.telem

theorem fieldWritten_writeSlot (s : State) (slot : Nat) (v : Word) :
    FieldWritten s ((s.setOut s.out.goOn).writeSlot slot v) slot v :=
  ⟨rfl, storeRead_storeWrite_same slot v s.blk.telem, fun _ hj => storeRead_storeWrite_other hj v s.blk.telem⟩

/-- R176, R177: a row whose bytes were received writes the extended value to its slot. -/
theorem exists_extInstr_fieldWritten {raw v : Word} (hheld : s.blk.held = true) (hslot : d.toNat < s.cfg.nslots)
    (hdn : o.toNat + fieldWidth k ≤ rxDataCount s.cfg s.blk.mLen)
    (hraw : memRead s.blk.data o.toNat (fieldWidth k) = .ok raw) (hv : extendField k raw = v) :
    ∃ t, exec (extInstr k o d) s = .next t ∧ FieldWritten s t d.toNat v := by
  obtain ⟨hcap, -⟩ := memRead_eq_ok_iff.mp hraw
  refine ⟨_, ?_, fieldWritten_writeSlot s d.toNat v⟩
  rw [exec_extInstr, extractAlone_of_held hheld (fieldFits_iff.mpr ⟨hcap, hslot⟩), ← hv]
  exact extractField_of_memRead (s := s.setOut s.out.goOn) hdn hraw

end Field

/-! ### The values of the seven kinds -/

/-- The raw read of a narrow field is cut back to the field's own bits (R176). -/
theorem truncate_zeroExtend_word {n : Nat} (b : BitVec n) (h : n ≤ 32) : (b.zeroExtend 32).truncate n = b :=
  (BitVec.setWidth_setWidth_of_le b h).trans b.setWidth_eq

/-- R182, R183. -/
theorem extendField_byte (b : Byte) :
    extendField .u8 (b.zeroExtend 32) = b.zeroExtend 32 ∧ extendField .i8 (b.zeroExtend 32) = b.signExtend 32 := by
  simp only [extendField, truncate_zeroExtend_word b (by decide), and_self]

/-- R184, R185. -/
theorem extendField_half (h : Half) :
    extendField .u16 (h.zeroExtend 32) = h.zeroExtend 32 ∧ extendField .i16 (h.zeroExtend 32) = h.signExtend 32 := by
  simp only [extendField, truncate_zeroExtend_word h (by decide), and_self]

/-- Settles O30: the raw read is the byte (`memRead_byte_iff`), which the two kinds extend (`extendField_byte`). -/
theorem byteFieldsAreExtracted : Obligations.ByteFieldsAreExtracted := by
  intro s o d b₀ hheld hcap hslot hdn h₀
  have hraw := memRead_byte_iff.mpr ⟨hcap, b₀, h₀, rfl⟩
  obtain ⟨hzero, hsign⟩ := extendField_byte b₀
  rw [List.forall_mem_cons, List.forall_mem_singleton]
  exact ⟨exists_extInstr_fieldWritten (k := .u8) hheld hslot hdn hraw hzero,
    exists_extInstr_fieldWritten (k := .i8) hheld hslot hdn hraw hsign⟩

/-- Settles O31: the raw read is the two bytes, the first the least significant (`memRead_half_iff`), which the two kinds
extend (`extendField_half`). -/
theorem halfFieldsAreExtracted : Obligations.HalfFieldsAreExtracted := by
  intro s o d b₀ b₁ hheld hcap hslot hdn h₀ h₁
  have hraw := memRead_half_iff.mpr ⟨hcap, b₀, b₁, h₀, h₁, rfl⟩
  obtain ⟨hzero, hsign⟩ := extendField_half (b₁ ++ b₀)
  rw [List.forall_mem_cons, List.forall_mem_singleton]
  exact ⟨exists_extInstr_fieldWritten (k := .u16) hheld hslot hdn hraw hzero,
    exists_extInstr_fieldWritten (k := .i16) hheld hslot hdn hraw hsign⟩

/-- Settles O32: the raw read is the four bytes, the first the least significant (`memRead_word_iff`), and the three kinds
keep it as it is. -/
theorem wordFieldsAreExtracted : Obligations.WordFieldsAreExtracted := by
  intro s o d b₀ b₁ b₂ b₃ hheld hcap hslot hdn h₀ h₁ h₂ h₃ v
  have hraw : memRead s.blk.data o.toNat 4 = .ok v := memRead_word_iff.mpr ⟨hcap, b₀, b₁, b₂, b₃, h₀, h₁, h₂, h₃, rfl⟩
  rw [List.forall_mem_cons, List.forall_mem_cons, List.forall_mem_singleton]
  exact ⟨exists_extInstr_fieldWritten (k := .u32) hheld hslot hdn hraw rfl,
    exists_extInstr_fieldWritten (k := .i32) hheld hslot hdn hraw rfl,
    exists_extInstr_fieldWritten (k := .f32) hheld hslot hdn hraw rfl⟩

end Sys2Proof.Machine

/-! PROOF. DISPATCH: that it is the rows of its entry in order (42_field_extractor.md R180, R181, R189), what it writes
(R177), and what it does not read (R174, R175, R190). -/

namespace Sys2Proof.Machine

/-! ### Known and unknown objects (R180, R181) -/

/-- R181: no entry has the object id. -/
theorem execDispatch_of_unknown {s : State} (hheld : s.blk.held = true)
    (hlookup : lookupLayout s.blk.mOid s.cfg.layouts = none) :
    execDispatch s = .next ((s.setOut Outputs.idle).addTrace (.unknownObject s.blk.mOid)).endDispatch := by
  simp [execDispatch, State.whenHeld, hheld, hlookup]

/-- R180: the descriptors of the entry, in list order, and then the end of the hold. -/
theorem execDispatch_of_known {s : State} {descs : List Word} (hheld : s.blk.held = true)
    (hlookup : lookupLayout s.blk.mOid s.cfg.layouts = some descs) :
    execDispatch s = Result.andThen (extractAll descs (s.setOut Outputs.idle)) fun t => .next t.endDispatch := by
  simp [execDispatch, State.whenHeld, hheld, hlookup]

/-- Settles O34: the lookup finds nothing (`lookupLayout_eq_none_iff`), and DISPATCH only records that
(`execDispatch_of_unknown`). -/
theorem dispatchOfUnknownObjectIsNoOp : Obligations.DispatchOfUnknownObjectIsNoOp := fun _ hheld hunknown =>
  execDispatch_of_unknown hheld (lookupLayout_eq_none_iff.mpr hunknown)

/-- A layout that the lookup finds is an entry's with the object id (R175). -/
theorem exists_entry_of_lookupLayout {oid : Word} {l : List LayoutEntry} {descs : List Word}
    (h : lookupLayout oid l = some descs) : ∃ e ∈ l, e.oid = oid ∧ e.descs = descs := by
  induction l with
  | nil => cases h
  | cons x l ih =>
    rw [lookupLayout] at h
    split_ifs at h with hx
    · exact ⟨x, List.mem_cons_self, hx, Option.some.inj h⟩
    · obtain ⟨e, he, hoid, hdescs⟩ := ih h
      exact ⟨e, List.mem_cons_of_mem x he, hoid, hdescs⟩

/-! ### Inside a DISPATCH -/

/-- A message is held, and the outputs show nothing but what the dispatcher has collected. -/
structure Dispatching (s : State) : Prop where
  held : s.blk.held = true
  out : s.out.goOn = s.out

theorem dispatching_begin {s : State} (hheld : s.blk.held = true) : Dispatching (s.setOut Outputs.idle) :=
  ⟨hheld, rfl⟩

theorem Dispatching.of_extractField {s t : State} {k : FieldKind} {o d : Byte} (hs : Dispatching s)
    (h : s.extractField k o d = .next t) : Dispatching t := by
  refine ⟨(extractField_frame h).held.trans hs.held, ?_⟩
  rcases extractField_next_cases h with ⟨-, raw, -, rfl⟩ | ⟨-, rfl⟩
  · rw [State.writeSlot_out, Outputs.goOn_noteWrite, hs.out]
  · rw [State.skipShort_out, Outputs.goOn_noteShort, hs.out]

theorem Dispatching.of_extractAll {ds : List Word} {s t : State} (hs : Dispatching s) (h : extractAll ds s = .next t) :
    Dispatching t :=
  extractAll_induction (P := Dispatching) (fun _ _ _ _ _ hu _ he => hu.of_extractField he) hs h

/-- Inside a DISPATCH a field's row is the field itself (log 19). -/
theorem Dispatching.exec_extInstr {s : State} {k : FieldKind} {o d : Byte} (hs : Dispatching s)
    (hfits : fieldFits s.cfg k o d = true) : exec (extInstr k o d) s = s.extractField k o d := by
  rw [Machine.exec_extInstr, extractAlone_of_held hs.held hfits, hs.out]
  rfl

/-! ### DISPATCH as its descriptors' rows -/

theorem andThen_congr {r : Result} {f g : State → Result} (h : ∀ t, r = .next t → f t = g t) :
    Result.andThen r f = Result.andThen r g := by
  cases r with
  | next t => exact h t rfl
  | fault e => rfl
  | refused e => rfl

/-- A descriptor that a well-formed table holds, and the row it decodes to, do the same inside a DISPATCH. -/
theorem Dispatching.exec_decoded {s : State} {w : Word} {i : Instr} (hs : Dispatching s) (hok : descOk s.cfg w = true)
    (hi : decodeDescriptor w = .ok i) : exec i s = s.extractWord w := by
  obtain ⟨k, o, d, rfl, hfits⟩ := descOk_iff.mp hok
  rw [decodeDescriptor_descWord] at hi
  obtain rfl := Except.ok.inj hi
  rw [hs.exec_extInstr hfits, extractWord_descWord hfits]

/-- R189: so do lists of them, in order. -/
theorem Dispatching.runAll_decoded {ds : List Word} {is : List Instr} {s : State} (hs : Dispatching s)
    (hok : ∀ w ∈ ds, descOk s.cfg w = true) (hdec : List.Forall₂ (fun w i => decodeDescriptor w = .ok i) ds is) :
    runAll is s = extractAll ds s := by
  induction hdec generalizing s with
  | nil => rfl
  | cons hi _ ih =>
    obtain ⟨hw, hws⟩ := List.forall_mem_cons.mp hok
    rw [runAll, extractAll, hs.exec_decoded hw hi]
    refine andThen_congr fun t ht => ?_
    obtain ⟨k, o, d, -, -, he⟩ := extractWord_next ht
    exact ih (hs.of_extractField he) ((extractField_frame he).cfg ▸ hws)

/-- Settles O35: the table's object ids are distinct, so the lookup finds this entry (`lookupLayout_of_mem`), whose words
and rows do the same (`Dispatching.runAll_decoded`). -/
theorem dispatchIsItsDescriptorsInOrder : Obligations.DispatchIsItsDescriptorsInOrder := by
  intro s e is hheld hcfg he hoid hdec
  obtain ⟨-, hlayouts⟩ := configRefusal_eq_none_iff.mp hcfg
  obtain ⟨hdistinct, hok⟩ := layoutsOk_iff.mp hlayouts
  have hlookup : lookupLayout s.blk.mOid s.cfg.layouts = some e.descs := hoid ▸ lookupLayout_of_mem hdistinct he
  have hrun : runAll is (s.setOut Outputs.idle) = extractAll e.descs (s.setOut Outputs.idle) :=
    (dispatching_begin hheld).runAll_decoded (hok e he) hdec
  calc exec .dispatch s
      = Result.andThen (extractAll e.descs (s.setOut Outputs.idle)) fun t => .next t.endDispatch :=
        execDispatch_of_known hheld hlookup
    _ = Result.andThen (runAll is (s.setOut Outputs.idle)) fun t => .next t.endDispatch := by rw [hrun]

/-! ### DISPATCH completes, and writes the slots of its entry alone -/

/-- R53: a field of received bytes that are written is read; one that was not received is skipped. -/
theorem exists_extractField_next {s : State} {k : FieldKind} {o d : Byte} (hfits : fieldFits s.cfg k o d = true)
    (hwritten : Written s.blk.data (rxDataCount s.cfg s.blk.mLen)) : ∃ t, s.extractField k o d = .next t := by
  obtain ⟨hcap, -⟩ := fieldFits_iff.mp hfits
  by_cases hdn : o.toNat + fieldWidth k ≤ rxDataCount s.cfg s.blk.mLen
  · obtain ⟨raw, hraw⟩ := Option.isSome_iff_exists.mp
      (readLE_isSome (m := s.blk.data) (i := o.toNat) (n := fieldWidth k) fun j _ hj => hwritten j (by omega))
    exact ⟨_, extractField_of_memRead hdn (memRead_eq_ok_iff.mpr ⟨hcap, hraw⟩)⟩
  · exact ⟨_, extractField_of_short (Nat.not_le.mp hdn)⟩

theorem exists_extractAll_next {ds : List Word} {s : State} (hok : ∀ w ∈ ds, descOk s.cfg w = true)
    (hwritten : Written s.blk.data (rxDataCount s.cfg s.blk.mLen)) : ∃ t, extractAll ds s = .next t := by
  induction ds generalizing s with
  | nil => exact ⟨s, rfl⟩
  | cons w ds ih =>
    obtain ⟨hw, hws⟩ := List.forall_mem_cons.mp hok
    obtain ⟨k, o, d, rfl, hfits⟩ := descOk_iff.mp hw
    obtain ⟨u, hu⟩ := exists_extractField_next hfits hwritten
    have hframe := extractField_frame hu
    have hwritten' : Written u.blk.data (rxDataCount u.cfg u.blk.mLen) := by
      rw [hframe.cfg, hframe.telem]
      exact hwritten
    obtain ⟨t, ht⟩ := ih (hframe.cfg ▸ hws) hwritten'
    exact ⟨t, andThen_eq_next_iff.mpr ⟨u, (extractWord_descWord hfits).trans hu, ht⟩⟩

/-- R177: a field writes no slot but its own. -/
theorem extractField_slot_other {s t : State} {k : FieldKind} {o d : Byte} {j : Nat}
    (h : s.extractField k o d = .next t) (hj : j ≠ d.toNat) :
    storeRead j t.blk.telem = storeRead j s.blk.telem := by
  rcases extractField_next_cases h with ⟨-, raw, -, rfl⟩ | ⟨-, rfl⟩
  · exact storeRead_storeWrite_other hj _ s.blk.telem
  · rfl

theorem extractAll_slot_other {ds : List Word} {s t : State} {j : Nat} (h : extractAll ds s = .next t)
    (hj : ∀ w ∈ ds, (descDest w).toNat ≠ j) : storeRead j t.blk.telem = storeRead j s.blk.telem := by
  induction ds generalizing s with
  | nil =>
    obtain rfl := Host.Outcome.next.inj h
    rfl
  | cons w ds ih =>
    obtain ⟨hw, hws⟩ := List.forall_mem_cons.mp hj
    obtain ⟨u, hu, ht⟩ := andThen_eq_next_iff.mp h
    obtain ⟨k, o, d, hfields, -, he⟩ := extractWord_next hu
    obtain rfl := descFields_eq_some_iff.mp hfields
    rw [descDest_descWord] at hw
    exact (ih ht hws).trans (extractField_slot_other he hw.symm)

/-- What a DISPATCH that goes on leaves alone: everything but the hold, the slots, the outputs and the trace. -/
theorem ExtractFrame.endDispatch_eq {s t : State} (h : ExtractFrame (s.setOut Outputs.idle) t) (ht : Dispatching t) :
    t.endDispatch = { s with
      blk := { s.blk with held := false, telem := t.blk.telem },
      out := { Outputs.idle with dispDone := true, dispChanged := t.out.dispChanged, dispShort := t.out.dispShort },
      trace := t.trace } := by
  obtain ⟨htelem, hcfg, hhost, hscript, hreq, hsteps⟩ := h
  calc t.endDispatch
      = { t with blk := { t.blk with held := false }, out := t.out.goOn.finishDispatch } := by rw [ht.out]; rfl
    _ = _ := by rw [htelem, hcfg, hhost, hscript, hreq, hsteps]; rfl

/-- Settles O36: for an unknown object it is R181's no-op; for a known one the entry's fields all go on
(`exists_extractAll_next`), write no slot but theirs (`extractAll_slot_other`) and leave the rest
(`ExtractFrame.endDispatch_eq`). -/
theorem dispatchCompletesAndWritesOnlyItsSlots : Obligations.DispatchCompletesAndWritesOnlyItsSlots := by
  intro s hheld hcfg hwritten
  cases hlookup : lookupLayout s.blk.mOid s.cfg.layouts with
  | none => exact ⟨_, execDispatch_of_unknown hheld hlookup, rfl, fun _ _ => rfl⟩
  | some descs =>
    obtain ⟨e, he, hoid, rfl⟩ := exists_entry_of_lookupLayout hlookup
    obtain ⟨-, hlayouts⟩ := configRefusal_eq_none_iff.mp hcfg
    obtain ⟨-, hok⟩ := layoutsOk_iff.mp hlayouts
    obtain ⟨u, hu⟩ := exists_extractAll_next (s := s.setOut Outputs.idle) (hok e he) hwritten
    refine ⟨u.endDispatch, ?_, (extractAll_frame hu).endDispatch_eq ((dispatching_begin hheld).of_extractAll hu),
      fun j hj => extractAll_slot_other (s := s.setOut Outputs.idle) (t := u) hu (hj e he hoid)⟩
    exact (execDispatch_of_known hheld hlookup).trans (andThen_eq_next_iff.mpr ⟨u, hu, rfl⟩)

/-! ### What DISPATCH does not read (R174, R175, R190) -/

section Message

variable {s t : State} {iid : Half} {ty : Byte}

/-- The same state with another `m_iid` and `m_type`. -/
def State.withIidType (s : State) (iid : Half) (ty : Byte) : State :=
  s.setBlk { s.blk with mIid := iid, mType := ty }

theorem extractField_withIidType {k : FieldKind} {o d : Byte} (h : s.extractField k o d = .next t) :
    (s.withIidType iid ty).extractField k o d = .next (t.withIidType iid ty) := by
  rcases extractField_next_cases h with ⟨hdn, raw, hraw, rfl⟩ | ⟨hdn, rfl⟩
  · exact extractField_of_memRead (s := s.withIidType iid ty) hdn hraw
  · exact extractField_of_short (s := s.withIidType iid ty) hdn

theorem extractWord_withIidType {w : Word} (h : s.extractWord w = .next t) :
    (s.withIidType iid ty).extractWord w = .next (t.withIidType iid ty) := by
  obtain ⟨k, o, d, hfields, hfits, he⟩ := extractWord_next h
  obtain rfl := descFields_eq_some_iff.mp hfields
  exact (extractWord_descWord (s := s.withIidType iid ty) hfits).trans (extractField_withIidType he)

theorem extractAll_withIidType {ds : List Word} (h : extractAll ds s = .next t) :
    extractAll ds (s.withIidType iid ty) = .next (t.withIidType iid ty) := by
  induction ds generalizing s with
  | nil =>
    obtain rfl := Host.Outcome.next.inj h
    rfl
  | cons w ds ih =>
    obtain ⟨u, hu, ht⟩ := andThen_eq_next_iff.mp h
    exact andThen_eq_next_iff.mpr ⟨_, extractWord_withIidType hu, ih ht⟩

end Message

/-- Settles O38: the lookup reads the object id alone, and each field (`extractField_withIidType`) the length and the
data. -/
theorem dispatchIgnoresInstanceAndType : Obligations.DispatchIgnoresInstanceAndType := by
  intro s t iid ty h
  obtain ⟨hheld, ⟨hlookup, rfl⟩ | ⟨descs, u, hlookup, hu, rfl⟩⟩ := execDispatch_next_cases h
  · exact execDispatch_of_unknown (s := s.withIidType iid ty) hheld hlookup
  · refine (execDispatch_of_known (s := s.withIidType iid ty) hheld hlookup).trans ?_
    exact andThen_eq_next_iff.mpr ⟨u.withIidType iid ty, extractAll_withIidType hu, rfl⟩

end Sys2Proof.Machine

/-! PROOF. Which layout tables are accepted (42_field_extractor.md R172). -/

namespace Sys2Proof.Machine

/-- R172 item 1: the match on the object id is a function. -/
theorem nodup_oids_iff {l : List LayoutEntry} :
    (l.map LayoutEntry.oid).Nodup ↔
      ∀ i j (hi : i < l.length) (hj : j < l.length), i ≠ j → l[i].oid ≠ l[j].oid := by
  rw [List.nodup_iff_pairwise_ne, List.pairwise_map, List.pairwise_iff_getElem]
  constructor
  · intro h i j hi hj hne
    rcases Nat.lt_or_gt_of_ne hne with hlt | hgt
    · exact h i j hi hj hlt
    · exact (h j i hj hi hgt).symm
  · exact fun h i j hi hj hlt => h i j hi hj (Nat.ne_of_lt hlt)

/-- R172 items 2 to 4, on the bits of the descriptor. -/
theorem descOk_iff_fields {cfg : Config} {w : Word} :
    descOk cfg w = true ↔ descReserved w = 0 ∧ (descDest w).toNat < cfg.nslots ∧
      ∃ k, descKindCode w = kindCode k ∧ (descOffset w).toNat + fieldWidth k ≤ 255 := by
  constructor
  · intro h
    obtain ⟨k, o, d, rfl, hfits⟩ := descOk_iff.mp h
    obtain ⟨hcap, hslot⟩ := fieldFits_iff.mp hfits
    exact ⟨descReserved_descWord k o d, by rwa [descDest_descWord], k, descKindCode_descWord k o d,
      by rwa [descOffset_descWord]⟩
  · rintro ⟨hreserved, hslot, k, hkind, hcap⟩
    have hfields : descFields w = some (k, descOffset w, descDest w) := by
      simp [descFields, hreserved, hkind]
    exact descOk_iff.mpr ⟨k, descOffset w, descDest w, descFields_eq_some_iff.mp hfields,
      fieldFits_iff.mpr ⟨hcap, hslot⟩⟩

theorem configRefusal_of_bad_layouts {cfg : Config} (hparams : paramsOk cfg = true) (h : ¬ layoutsOk cfg = true) :
    configRefusal cfg = some .badLayout := by
  simp [configRefusal, hparams, h]

theorem exec_reset_of_refusal {s : State} {r : Refusal} (h : configRefusal s.hostCfg = some r) :
    exec .reset s = .refused r := by
  simp [exec, execReset, h]

theorem step_of_refusal {s : State} {r : Refusal} (h : configRefusal s.cfg = some r) : step s = .refused r := by
  simp [step, h]

/-- Settles O17: the model's check is R172's four conditions (`nodup_oids_iff`, `descOk_iff_fields`), and where it fails
both RESET and every step are refused. -/
theorem layoutsAreAcceptedExactlyWhenWellFormed : Obligations.LayoutsAreAcceptedExactlyWhenWellFormed := by
  intro cfg hparams wellFormed
  have hcheck : layoutsOk cfg = true ↔ wellFormed :=
    layoutsOk_iff.trans (and_congr nodup_oids_iff (forall₄_congr fun _ _ _ _ => descOk_iff_fields))
  rw [← hcheck]
  constructor
  · rintro hok s rfl
    exact ⟨s.doReset, execReset_next_iff.mpr ⟨configRefusal_eq_none_iff.mpr ⟨hparams, hok⟩, rfl⟩⟩
  · intro hbad s
    have hrefused := configRefusal_of_bad_layouts hparams hbad
    exact ⟨fun hhost => exec_reset_of_refusal (hhost ▸ hrefused), fun hcfg => step_of_refusal (hcfg ▸ hrefused)⟩

end Sys2Proof.Machine

/-! PROOF. RESET, and the state after it (70_reset_and_hazards.md R230, R231, R234). -/

namespace Sys2Proof.Machine

/-- R230, with R234's sampling of the parameters: every field of the state after RESET; `hostCfg`, the input and the step
counter are those of `s`. -/
theorem doReset_eq (s : State) :
    s.doReset =
      { s with
        blk := { st := .idle, acc := 0, cnt := 0, mSync := 0, mType := 0, mLen := 0, mOid := 0, mIid := 0,
                 mCrc := 0, data := [], held := false, txq := [], telem := [] },
        out := { verdict := .none, dispDone := false, dispChanged := false, dispShort := false, crcOut := none },
        trace := s.trace ++ [.reset], cfg := s.hostCfg } := rfl

/-- Settles O16: RESET goes on where the presented configuration is good (`execReset_next_iff`), with the state that
`doReset_eq` writes out. -/
theorem resetWritesEveryRegister : Obligations.ResetWritesEveryRegister :=
  fun s hhost => execReset_next_iff.mpr ⟨hhost, (doReset_eq s).symm⟩

/-- R9: the default parameters are good, so a RESET that presents them goes on (log 5). -/
theorem configRefusal_default : configRefusal Config.default = none := by decide

/-- R231: the reset state has the block and the configuration that a RESET with the default parameters leaves, and a RESET
leaves a well-formed state (`sound_doReset`). -/
theorem sound_reset : Sound State.reset := by
  have hsound : Sound State.reset.doReset := sound_doReset configRefusal_default
  exact hsound

/-- R231: after reset no frame is in progress and no message is held. -/
theorem crcFolded_reset : CrcFolded State.reset := crcFolded_of_idle rfl rfl

/-- Settles O39: nothing is in progress after reset and both stores are empty (`sound_reset`, `crcFolded_reset`). -/
theorem resetStateIsSound : Obligations.ResetStateIsSound := ⟨sound_reset, crcFolded_reset⟩

end Sys2Proof.Machine

/-! PROOF. Which rows are enabled (60_exceptions.md R204), and in which codec state a row of the codec runs
(30_encoding.md R88). -/

namespace Sys2Proof.Machine

/-! ### Enabling by the hold -/

theorem whenFree_of_held {s : State} (hheld : s.blk.held = true) (r : Result) :
    s.whenFree r = .refused .notEnabled := if_pos hheld

theorem whenHeld_of_free {s : State} (hfree : s.blk.held = false) (r : Result) :
    s.whenHeld r = .refused .notEnabled := by
  simp [State.whenHeld, hfree]

/-! ### The codec state of a row (logs 10, 11) -/

/-- In `s` the row does something only while no message is held and `st` is the codec state. -/
def RunsOnlyIn (s : State) (st : CodecState) (i : Instr) : Prop := ∃ r, exec i s = s.inCodecState st r

theorem RunsOnlyIn.of_held {s : State} {st : CodecState} {i : Instr} (h : RunsOnlyIn s st i)
    (hheld : s.blk.held = true) : exec i s = .refused .notEnabled := by
  obtain ⟨r, hr⟩ := h
  exact hr.trans (whenFree_of_held hheld _)

theorem RunsOnlyIn.of_other_state {s : State} {st : CodecState} {i : Instr} (h : RunsOnlyIn s st i)
    (hfree : s.blk.held = false) (hst : s.blk.st ≠ st) : exec i s = .refused .rowNotSelected := by
  obtain ⟨r, hr⟩ := h
  simp [hr, State.inCodecState, State.whenFree, hfree, hst]

theorem runsOnlyIn_codecRow (s : State) (st : CodecState) (b : Byte) : RunsOnlyIn s st (codecRow s.cfg st b) := by
  cases st
  case idle | gotSync =>
    rw [codecRow]
    split_ifs <;> exact ⟨_, rfl⟩
  all_goals exact ⟨_, rfl⟩

/-- Every key is a state's code and a byte, and decodes to their row. -/
theorem exists_codecRow_of_key (cfg : Config) (key : BitVec 11) :
    ∃ st b, stateCode st = key.extractLsb' 8 3 ∧ decodeCodecKey cfg key = codecRow cfg st b := by
  obtain ⟨c, b, rfl⟩ := exists_eq_code_append key
  have hcode : stateCode (stateOfCode c) = c := by revert c; decide
  refine ⟨stateOfCode c, b, ?_, ?_⟩
  · rw [extractLsb'_code_append, hcode]
  · rw [← decodeCodecKey_stateCode, hcode]

theorem runsOnlyIn_fixedMsgTypeRow (s : State) {i : Instr} (hi : i ∈ fixedMsgTypeRows) : RunsOnlyIn s .gotSync i := by
  rw [fixedMsgTypeRows] at hi
  fin_cases hi <;> exact ⟨_, rfl⟩

theorem runsOnlyIn_msgVersionCheck (s : State) (ty : Nibble) : RunsOnlyIn s .gotSync (.msgVersionCheck ty) :=
  ⟨_, rfl⟩

theorem reservedTypeInstr_cases (ty : Nibble) :
    reservedTypeInstr ty ∈ fixedMsgTypeRows ∨ reservedTypeInstr ty = .msgVersionCheck ty := by
  revert ty; decide

/-- R72, R87: a msg_type byte is a row of a fixed type or of the open one, or with another version the codec's
bad-version row. -/
theorem decodeMsgType_cases (cfg : Config) (b : Byte) :
    decodeMsgType cfg b ∈ fixedMsgTypeRows ∨ (∃ ty, decodeMsgType cfg b = .msgVersionCheck ty) ∨
      decodeMsgType cfg b = .rxGotSyncBadVersion b := by
  rw [decodeMsgType]
  split_ifs
  · cases msgKind cfg (loNibble b)
    case reserved => exact (reservedTypeInstr_cases (loNibble b)).imp_right fun h => .inl ⟨_, h⟩
    all_goals exact .inl (by simp [fixedMsgTypeRows])
  · exact .inr (.inr rfl)

theorem runsOnlyIn_decodeMsgType (s : State) (b : Byte) : RunsOnlyIn s .gotSync (decodeMsgType s.cfg b) := by
  rcases decodeMsgType_cases s.cfg b with hfixed | ⟨ty, h⟩ | h
  · exact runsOnlyIn_fixedMsgTypeRow s hfixed
  · exact h ▸ runsOnlyIn_msgVersionCheck s ty
  · exact h ▸ ⟨_, rfl⟩

/-- Settles O13: with a message held, every row of the codec is one that runs only in a codec state (`RunsOnlyIn`), and so
not enabled; without one, DISPATCH and its fields are not (`whenHeld_of_free`). -/
theorem actionsAreEnabledByTheHold : Obligations.ActionsAreEnabledByTheHold := by
  intro s b key
  refine ⟨fun hheld => ⟨whenFree_of_held hheld _, whenFree_of_held hheld _, ?_, ?_⟩,
    fun hfree => ⟨whenHeld_of_free hfree _, fun k o d hfits => ?_⟩, ⟨_, rxNoneChangesNoState s⟩,
    fun hhost => ⟨_, execReset_next_iff.mpr ⟨hhost, rfl⟩⟩⟩
  · obtain ⟨st, b', -, hrow⟩ := exists_codecRow_of_key s.cfg key
    exact hrow ▸ (runsOnlyIn_codecRow s st b').of_held hheld
  · exact (runsOnlyIn_decodeMsgType s b).of_held hheld
  · rw [exec_extInstr]
    exact (if_pos hfits).trans (whenHeld_of_free hfree _)

/-- Settles O29: a codec-step row runs only in its key's state and a msg_type row only in GotSync
(`RunsOnlyIn.of_other_state`); in Idle and GotSync the rows for other bytes refuse the byte that is not theirs. -/
theorem rowsOfOtherStatesAreNotSelected : Obligations.RowsOfOtherStatesAreNotSelected := by
  intro s
  refine ⟨fun hfree => ⟨fun key hkey => ?_, fun hst => ?_, fun hst ty => ?_, fun hst => ⟨fun i hi => ?_, fun ty => ?_⟩⟩,
    fun hheld => ⟨fun i hi => ?_, fun ty => ?_⟩⟩
  · obtain ⟨st, b, hcode, hrow⟩ := exists_codecRow_of_key s.cfg key
    have hst : s.blk.st ≠ st := fun h => hkey (h ▸ hcode)
    exact hrow ▸ (runsOnlyIn_codecRow s st b).of_other_state hfree hst
  · exact (inCodecState_of_eq hfree hst _).trans (if_pos rfl)
  · exact (inCodecState_of_eq hfree hst _).trans (if_pos (versionOk_typeByte s.cfg ty))
  · exact (runsOnlyIn_fixedMsgTypeRow s hi).of_other_state hfree hst
  · exact (runsOnlyIn_msgVersionCheck s ty).of_other_state hfree hst
  · exact (runsOnlyIn_fixedMsgTypeRow s hi).of_held hheld
  · exact (runsOnlyIn_msgVersionCheck s ty).of_held hheld

end Sys2Proof.Machine

/-! PROOF. The field rows that write nothing (42_field_extractor.md R172, R178), and what `disp_changed` says of the slots
(R179). -/

namespace Sys2Proof.Machine

/-- Settles O33: the row is the field itself (`extractAlone_of_held`), which is short (`extractField_of_short`). -/
theorem shortFieldsAreSkipped : Obligations.ShortFieldsAreSkipped := by
  intro s k o d hheld hcap hslot hshort
  rw [exec_extInstr, extractAlone_of_held hheld (fieldFits_iff.mpr ⟨hcap, hslot⟩)]
  exact extractField_of_short (s := s.setOut s.out.goOn) hshort

/-- Settles O57: such a field does not fit (`fieldFits_iff`), and a row of its own checks that first. -/
theorem unfittingDescriptorRowsAreRefused : Obligations.UnfittingDescriptorRowsAreRefused := by
  intro s k o d h
  have hunfit : ¬ fieldFits s.cfg k o d = true := by
    rw [fieldFits_iff]
    omega
  rw [exec_extInstr]
  exact if_neg hunfit

/-- R179: unless a change has been noted, every slot reads as in `s`. -/
def SlotsKeptUnlessChanged (s t : State) : Prop :=
  t.out.dispChanged = false → ∀ j, storeRead j t.blk.telem = storeRead j s.blk.telem

/-- A write that is no change leaves its slot as it was. -/
theorem storeRead_storeWrite_of_not_isChange {m : List (Nat × Word)} {i : Nat} {v : Word}
    (h : isChange (storeRead i m) v = false) (j : Nat) : storeRead j (storeWrite i v m) = storeRead j m := by
  have hv : storeRead i m = some v := by simpa [isChange] using h
  by_cases hj : j = i
  · rw [hj, storeRead_storeWrite_same, hv]
  · exact storeRead_storeWrite_other hj v m

theorem SlotsKeptUnlessChanged.of_extractField {s t u : State} {k : FieldKind} {o d : Byte}
    (hkept : SlotsKeptUnlessChanged s t) (h : t.extractField k o d = .next u) : SlotsKeptUnlessChanged s u := by
  rcases extractField_next_cases h with ⟨-, raw, -, rfl⟩ | ⟨-, rfl⟩
  · intro hunchanged j
    rw [State.writeSlot_out, Outputs.noteWrite_dispChanged, Bool.or_eq_false_iff] at hunchanged
    obtain ⟨hbefore, hwrite⟩ := hunchanged
    exact (storeRead_storeWrite_of_not_isChange hwrite j).trans (hkept hbefore j)
  · exact hkept

/-- Settles O37: each field of the entry keeps `SlotsKeptUnlessChanged`, and the end of the hold touches no slot. -/
theorem noChangeReportedMeansNoSlotChanged : Obligations.NoChangeReportedMeansNoSlotChanged := by
  intro s t h hunchanged
  obtain ⟨-, ⟨-, rfl⟩ | ⟨descs, u, -, hu, rfl⟩⟩ := execDispatch_next_cases h
  · exact fun _ => rfl
  · have hbegin : SlotsKeptUnlessChanged s (s.setOut Outputs.idle) := fun _ _ => rfl
    have hkept : SlotsKeptUnlessChanged s u :=
      extractAll_induction (P := SlotsKeptUnlessChanged s) (fun _ _ _ _ _ hv _ he => hv.of_extractField he) hbegin hu
    exact hkept hunchanged

end Sys2Proof.Machine

/-! PROOF. What a step appends to the trace (10_state.md R41, 60_exceptions.md R202). -/

namespace Sys2Proof.Machine

/-! ### At most one code -/

/-- The trace has grown by a list of no more than one code. -/
def AppendsAtMostOne (s t : State) : Prop := ∃ l, t.trace = s.trace ++ l ∧ l.length ≤ 1

theorem AppendsAtMostOne.of_kept {s t : State} (h : t.trace = s.trace) : AppendsAtMostOne s t :=
  ⟨[], by rw [h, List.append_nil], Nat.zero_le 1⟩

theorem AppendsAtMostOne.of_append {s t : State} {c : Cause} (h : t.trace = s.trace ++ [c]) : AppendsAtMostOne s t :=
  ⟨[c], h, le_rfl⟩

theorem appendsAtMostOne_takeLength (s : State) (b : Byte) : AppendsAtMostOne s (s.takeLength b) := by
  rcases takeLength_cases s b with ⟨-, e⟩ | ⟨-, -, e⟩ | ⟨-, -, e⟩ <;> rw [e]
  · exact .of_kept rfl
  · exact .of_kept rfl
  · exact .of_append rfl

theorem takeData_trace {s t : State} {b : Byte} (h : s.takeData b = .next t) : t.trace = s.trace := by
  obtain ⟨-, rfl⟩ := takeData_eq_next_iff.mp h
  rfl

/-- RX_BYTE appends at most one code, but for the VALID step (R136). -/
theorem execRxByte_trace_cases {b : Byte} {s t : State} (h : execRxByte b s = .next t) :
    AppendsAtMostOne s t ∨ t = s.acceptFrame b := by
  obtain ⟨-, hc⟩ := execRxByte_next_cases h
  rcases hc with ⟨-, -, rfl⟩ | ⟨-, -, rfl⟩ | ⟨-, -, rfl⟩ | ⟨-, -, rfl⟩ | ⟨-, rfl⟩ | ⟨-, rfl⟩ | ⟨-, rfl⟩ |
    ⟨-, hdata⟩ | ⟨-, -, rfl⟩ | ⟨-, -, rfl⟩
  · exact .inl (.of_kept rfl)
  · exact .inl (.of_append rfl)
  · exact .inl (.of_kept rfl)
  · exact .inl (.of_append rfl)
  · exact .inl (appendsAtMostOne_takeLength s b)
  · exact .inl (.of_kept rfl)
  · exact .inl (.of_kept rfl)
  · exact .inl (.of_kept (takeData_trace hdata))
  · exact .inr rfl
  · exact .inl (.of_append rfl)

theorem extractField_appendsAtMostOne {s t : State} {k : FieldKind} {o d : Byte}
    (h : s.extractField k o d = .next t) : AppendsAtMostOne s t := by
  rcases extractField_next_cases h with ⟨-, raw, -, rfl⟩ | ⟨-, rfl⟩
  · exact .of_kept rfl
  · exact .of_append rfl

/-! ### The two cases with more -/

/-- R137: OBJ_ACK alone appends a code. -/
theorem treatMessage_trace (s : State) (k : MsgKind) :
    (s.treatMessage k).trace = s.trace ++ if k = .objAck then [.ackSent s.blk.mOid] else [] := by
  cases k <;> simp [State.treatMessage]

/-- R136, R137: FRAME_VALID, and for an OBJ_ACK frame ACK_SENT after it. -/
theorem acceptFrame_trace (s : State) (b : Byte) :
    (s.acceptFrame b).trace = s.trace ++ .frameValid s.blk.mOid s.blk.mType s.blk.mLen ::
      if loNibble s.blk.mType = s.cfg.typeObjAck then [.ackSent s.blk.mOid] else [] := by
  simp [State.acceptFrame, treatMessage_trace]

/-- R178: of the dispatcher's fields only the short ones are recorded. -/
def AppendsShortFields (s t : State) : Prop :=
  ∃ l, t.trace = s.trace ++ l ∧ ∀ c ∈ l, ∃ d, c = .shortField d

theorem AppendsShortFields.of_extractField {s t u : State} {k : FieldKind} {o d : Byte}
    (ht : AppendsShortFields s t) (h : t.extractField k o d = .next u) : AppendsShortFields s u := by
  rcases extractField_next_cases h with ⟨-, raw, -, rfl⟩ | ⟨-, rfl⟩
  · exact ht
  · obtain ⟨l, hl, hshort⟩ := ht
    refine ⟨l ++ [.shortField (descWord k o d)], ?_, ?_⟩
    · rw [State.skipShort_trace, hl, List.append_assoc]
    · exact List.forall_mem_append.mpr ⟨hshort, List.forall_mem_singleton.mpr ⟨_, rfl⟩⟩

/-- DISPATCH records that the object is unknown (R181), or its short fields. -/
theorem execDispatch_trace_cases {s t : State} (h : execDispatch s = .next t) :
    AppendsAtMostOne s t ∨ (s.blk.held = true ∧ AppendsShortFields s t) := by
  obtain ⟨hheld, ⟨-, rfl⟩ | ⟨descs, u, -, hu, rfl⟩⟩ := execDispatch_next_cases h
  · exact .inl (.of_append rfl)
  · have hbegin : AppendsShortFields s (s.setOut Outputs.idle) :=
      ⟨[], (List.append_nil s.trace).symm, List.forall_mem_nil _⟩
    have hfields : AppendsShortFields s u :=
      extractAll_induction (P := AppendsShortFields s) (fun _ _ _ _ _ hv _ he => hv.of_extractField he) hbegin hu
    exact .inr ⟨hheld, hfields⟩

/-- R202: an instruction appends at most one code, or it is the VALID step, or a DISPATCH. -/
theorem exec_trace_cases {i : Instr} {s t : State} (h : exec i s = .next t) :
    AppendsAtMostOne s t ∨ (∃ b, t = s.acceptFrame b) ∨ (s.blk.held = true ∧ AppendsShortFields s t) := by
  rcases exec_next_cases h with rfl | ⟨y, rfl⟩ | ⟨b, hb⟩ | he | ⟨-, hr⟩ | ⟨-, hd⟩ | ⟨k, o, d, hf⟩
  · exact .inl (.of_kept rfl)
  · exact .inl (.of_kept rfl)
  · exact (execRxByte_trace_cases hb).imp_right fun ht => .inl ⟨b, ht⟩
  · obtain ⟨-, rfl⟩ := execRxError_next_iff.mp he
    exact .inl (.of_append rfl)
  · obtain ⟨-, rfl⟩ := execReset_next_iff.mp hr
    exact .inl (.of_append rfl)
  · exact (execDispatch_trace_cases hd).imp_right .inr
  · obtain ⟨-, -, he⟩ := extractAlone_next hf
    exact .inl (extractField_appendsAtMostOne (s := s.setOut s.out.goOn) he)

/-- Settles O46: a step is one instruction (`exec_trace_cases`); the VALID step appends FRAME_VALID, and ACK_SENT after it
for an OBJ_ACK frame alone (`acceptFrame_trace`). -/
theorem traceOnlyGrows : Obligations.TraceOnlyGrows := by
  intro s t h
  obtain ⟨-, i, u, -, hu, rfl⟩ := step_next_cases h
  rcases exec_trace_cases hu with ⟨l, hl, hone⟩ | ⟨b, rfl⟩ | ⟨hheld, l, hl, hshort⟩
  · exact ⟨l, hl, .inl hone⟩
  · refine ⟨_, acceptFrame_trace s b, ?_⟩
    by_cases hack : loNibble s.blk.mType = s.cfg.typeObjAck
    · exact .inr (.inl (by rw [if_pos hack]))
    · exact .inl (by rw [if_neg hack]; exact le_rfl)
  · exact ⟨l, hl, .inr (.inr ⟨hheld, hshort⟩)⟩

end Sys2Proof.Machine

/-! PROOF. A step as `exec` of its instruction (00_scope.md R6), and the parameters: where they change
(70_reset_and_hazards.md R234), and which ones are refused (00_scope.md R9). -/

namespace Sys2Proof.Machine

/-- A step whose row faults faults. -/
theorem step_of_exec_fault {s : State} {i : Instr} {f : Fault} (hcfg : configRefusal s.cfg = none)
    (h : decode s.cfg s.nextWord = .ok i) (hi : exec i s = .fault f) : step s = .fault f := by
  simp [step, hcfg, h, hi, Result.andThen]

/-- Settles O11: one lemma for each of the three outcomes of the instruction. -/
theorem stepRunsTheDecodedInstruction : Obligations.StepRunsTheDecodedInstruction := fun _ _ hcfg hdecode =>
  ⟨fun _ => step_of_exec_next hcfg hdecode, fun _ => step_of_exec_fault hcfg hdecode,
    fun _ => step_of_exec_refused hcfg hdecode⟩

/-! ### Where the parameters change (R234) -/

/-- The parameters in force and those presented are as before. -/
structure ConfigKept (s t : State) : Prop where
  cfg : t.cfg = s.cfg
  hostCfg : t.hostCfg = s.hostCfg

theorem configKept_takeLength (s : State) (b : Byte) : ConfigKept s (s.takeLength b) := by
  rcases takeLength_cases s b with ⟨-, e⟩ | ⟨-, -, e⟩ | ⟨-, -, e⟩ <;> rw [e] <;> exact ⟨rfl, rfl⟩

theorem ConfigKept.of_takeData {s t : State} {b : Byte} (h : s.takeData b = .next t) : ConfigKept s t := by
  obtain ⟨-, rfl⟩ := takeData_eq_next_iff.mp h
  exact ⟨rfl, rfl⟩

@[simp] theorem State.treatMessage_hostCfg (s : State) (k : MsgKind) : (s.treatMessage k).hostCfg = s.hostCfg := by
  cases k <;> rfl

@[simp] theorem State.acceptFrame_hostCfg (s : State) (b : Byte) : (s.acceptFrame b).hostCfg = s.hostCfg := by
  simp [State.acceptFrame]

theorem ConfigKept.of_execRxByte {b : Byte} {s t : State} (h : execRxByte b s = .next t) : ConfigKept s t := by
  obtain ⟨-, hc⟩ := execRxByte_next_cases h
  rcases hc with ⟨-, -, rfl⟩ | ⟨-, -, rfl⟩ | ⟨-, -, rfl⟩ | ⟨-, -, rfl⟩ | ⟨-, rfl⟩ | ⟨-, rfl⟩ | ⟨-, rfl⟩ |
    ⟨-, hdata⟩ | ⟨-, -, rfl⟩ | ⟨-, -, rfl⟩
  · exact ⟨rfl, rfl⟩
  · exact ⟨rfl, rfl⟩
  · exact ⟨rfl, rfl⟩
  · exact ⟨rfl, rfl⟩
  · exact configKept_takeLength s b
  · exact ⟨rfl, rfl⟩
  · exact ⟨rfl, rfl⟩
  · exact .of_takeData hdata
  · exact ⟨State.acceptFrame_cfg s b, State.acceptFrame_hostCfg s b⟩
  · exact ⟨rfl, rfl⟩

theorem ConfigKept.of_execDispatch {s t : State} (h : execDispatch s = .next t) : ConfigKept s t := by
  obtain ⟨-, ⟨-, rfl⟩ | ⟨descs, u, -, hu, rfl⟩⟩ := execDispatch_next_cases h
  · exact ⟨rfl, rfl⟩
  · have hframe := extractAll_frame hu
    exact ⟨hframe.cfg, hframe.hostCfg⟩

/-- R234: an instruction keeps the parameters, or it is RESET with good ones presented. -/
theorem exec_config_cases {i : Instr} {s t : State} (h : exec i s = .next t) :
    ConfigKept s t ∨ (i = .reset ∧ configRefusal s.hostCfg = none ∧ t = s.doReset) := by
  rcases exec_next_cases h with rfl | ⟨y, rfl⟩ | ⟨b, hb⟩ | he | ⟨hi, hr⟩ | ⟨-, hd⟩ | ⟨k, o, d, hf⟩
  · exact .inl ⟨rfl, rfl⟩
  · exact .inl ⟨rfl, rfl⟩
  · exact .inl (.of_execRxByte hb)
  · obtain ⟨-, rfl⟩ := execRxError_next_iff.mp he
    exact .inl ⟨rfl, rfl⟩
  · exact .inr ⟨hi, execReset_next_iff.mp hr⟩
  · exact .inl (.of_execDispatch hd)
  · obtain ⟨-, -, he⟩ := extractAlone_next hf
    have hframe := extractField_frame he
    exact .inl ⟨hframe.cfg, hframe.hostCfg⟩

/-- Settles O49: of all instructions RESET alone touches the parameters (`exec_config_cases`). -/
theorem configurationChangesOnlyAtReset : Obligations.ConfigurationChangesOnlyAtReset := by
  intro s t h
  obtain ⟨-, i, u, hdecode, hu, rfl⟩ := step_next_cases h
  rcases exec_config_cases hu with hkept | ⟨rfl, hhost, rfl⟩
  · exact ⟨hkept.hostCfg, .inl hkept.cfg⟩
  · exact ⟨rfl, .inr ⟨hdecode, rfl, hhost⟩⟩

/-! ### Which parameters are refused (R9) -/

/-- R9, its conditions but for LAYOUTS. -/
theorem paramsOk_iff {cfg : Config} :
    paramsOk cfg = true ↔
      [cfg.typeObj, cfg.typeObjReq, cfg.typeObjAck, cfg.typeAck, cfg.typeNack].Pairwise (· ≠ ·) ∧
        1 ≤ cfg.nslots ∧ cfg.nslots ≤ 256 := by
  simp only [paramsOk, Bool.and_eq_true, decide_eq_true_iff, List.nodup_iff_pairwise_ne, and_assoc]

theorem configRefusal_of_bad_params {cfg : Config} (h : ¬ paramsOk cfg = true) :
    configRefusal cfg = some .badConfiguration := if_neg h

/-- Settles O56: the model's check is R9's conditions (`paramsOk_iff`), and it comes before that of LAYOUTS
(`configRefusal_of_bad_params`). -/
theorem badParametersAreRefused : Obligations.BadParametersAreRefused := by
  intro cfg good
  have hcheck : paramsOk cfg = true ↔ good := paramsOk_iff
  rw [← hcheck]
  refine ⟨id, fun hbad s => ?_⟩
  have hrefused := configRefusal_of_bad_params hbad
  exact ⟨fun hhost => exec_reset_of_refusal (hhost ▸ hrefused), fun hcfg => step_of_refusal (hcfg ▸ hrefused)⟩

end Sys2Proof.Machine

/-! PROOF. What an outside reader sees (10_state.md R24 to R34, R40; 93_implementation_defined.md I9). -/

namespace Sys2Proof.Machine

/-- What the `k`-th read of payload cell `i` answers when the spec leaves it open: the free value, where the cell
exists (log 14). -/
def openPayloadRead (steps i k : Nat) : Except Fault Byte :=
  if i < Config.payloadCap then .ok ((Config.deadRead steps (6 + i) k).truncate 8) else .error .noSuchCell

section Reads

variable {s : State} {i : Nat}

theorem readMsgReg_of_held (hheld : s.blk.held = true) (r : MsgReg) (k : Nat) :
    readMsgReg r k s = msgRegValue r s.blk := if_pos hheld

theorem readMsgReg_of_free (hfree : s.blk.held = false) (r : MsgReg) (k : Nat) :
    readMsgReg r k s = msgRegFit r (Config.deadRead s.steps (msgRegNumber r) k) := by
  simp [readMsgReg, hfree]

/-- R30: a data byte of the held frame. -/
theorem readPayload_of_received {b : Byte} (hheld : s.blk.held = true) (hdn : i < rxDataCount s.cfg s.blk.mLen)
    (hcap : i < Config.payloadCap) (hb : storeRead i s.blk.data = some b) (k : Nat) : readPayload i k s = .ok b := by
  simp [readPayload, hheld, hdn, hcap, hb]

/-- R32, I9: where the held frame has no byte, a read of a payload cell depends on the moment alone. -/
theorem readPayload_of_not_received (h : ¬ (s.blk.held = true ∧ i < rxDataCount s.cfg s.blk.mLen)) (k : Nat) :
    readPayload i k s = openPayloadRead s.steps i k := by
  rw [readPayload, if_neg h, openPayloadRead]

theorem readPayload_of_free (hfree : s.blk.held = false) (k : Nat) :
    readPayload i k s = openPayloadRead s.steps i k :=
  readPayload_of_not_received (by simp [hfree]) k

theorem readPayload_of_above (hdn : rxDataCount s.cfg s.blk.mLen ≤ i) (k : Nat) :
    readPayload i k s = openPayloadRead s.steps i k :=
  readPayload_of_not_received (fun ⟨_, hlt⟩ => absurd hlt (Nat.not_lt.mpr hdn)) k

theorem readSlot_unwritten (hslot : i < s.cfg.nslots) (h : storeRead i s.blk.telem = none) :
    readSlot i s = .error .unwrittenSlot := by
  simp [readSlot, hslot, h]

theorem readSlot_written {v : Word} (hslot : i < s.cfg.nslots) (h : storeRead i s.blk.telem = some v) :
    readSlot i s = .ok v := by
  simp [readSlot, hslot, h]

end Reads

/-- Settles O50: the reads of a held message are its values (`readMsgReg_of_held`, `readPayload_of_received`); the others
are free values, which name no field of the block (`readMsgReg_of_free`, `openPayloadRead`). -/
theorem outsideReads : Obligations.OutsideReads := by
  intro s
  refine ⟨rfl, fun hheld k => ?_, fun hheld i k b hdn hcap hb => readPayload_of_received hheld hdn hcap hb k,
    fun _ i k m hdn => ?_, fun hfree x r i k hx => ⟨?_, ?_⟩, fun i => readSlot_unwritten, fun i v => readSlot_written⟩
  · simp only [readMsgReg_of_held hheld]
    exact ⟨rfl, rfl, rfl, rfl, rfl, rfl⟩
  · rw [readPayload_of_above hdn]
    exact readPayload_of_above (s := s.setBlk { s.blk with data := m }) hdn k
  · rw [readMsgReg_of_free hfree]
    exact readMsgReg_of_free (s := s.setBlk x) hx r k
  · rw [readPayload_of_free hfree]
    exact readPayload_of_free (s := s.setBlk x) hx k

end Sys2Proof.Machine
